-- ==== Sys2Proof/Word.lean ====
section
/-! DEFINITION. The word types of the block: the command word (R90), the millisecond tick (R13, R33), the Q.15 level
(R12), and the integer that stands for amplitude 1.0 (R6, R12). Their arithmetic stands in Machine/Arith.lean. -/

namespace Sys2Proof

/-- The 64-bit command word of R90. -/
abbrev Word := BitVec 64

/-- A millisecond tick, `TICK_BITS = 32` bits (R6, R13, R33). -/
abbrev Tick := BitVec 32

/-- A 17-bit two's complement register (R12, R40, R41); its integer value is `BitVec.toInt`. -/
abbrev Q15 := BitVec 17

/-- `ONE`: the integer that stands for amplitude 1.0 (R6, R12), the one value of that parameter (`ParamTable.Valid`, log entry
17). -/
def one : Int := 32768

end Sys2Proof
end

