-- ==== Sys2Proof/Config.lean ====
section
/-! DEFINITION. What one implementation fixes (R6, R48): the table of parameters with the bounds R6 puts on it, and
`PWM_PERIOD`, the one parameter the spec leaves OPEN. The default values stand in Machine/Rom.lean. -/

namespace Sys2Proof

/-- A number with no body: nothing in the model or in a proof about it knows its value. `PWM_PERIOD` is made from it where the
parameters leave it OPEN (R6; log entry 2). -/
opaque Config.pwmPeriodLessOne : Fin 65535

/-- `PWM_PERIOD`, anything from 1 to 65535 (R6, R246): the duty that means the full period. -/
def Config.pwmPeriod : BitVec 16 := BitVec.ofNat 16 (Config.pwmPeriodLessOne.val + 1)

/-- The table of parameters of R6, all its rows. -/
structure ParamTable where
  /-- `NV`, number of voices in the pool. -/
  nv : Nat
  /-- `NCH`, number of logical channels. -/
  nch : Nat
  /-- `FS_HZ`, audio sample rate. -/
  fsHz : Nat
  /-- `FP_HZ`, pulse rate. -/
  fpHz : Nat
  /-- `PWM_PERIOD`, where a value is given; `none` leaves it OPEN, as the default of R6 does (`ParamTable.pwmPeriod`). -/
  pwmPeriodGiven : Option (BitVec 16)
  /-- `TICK_BITS`, width of the tick. -/
  tickBits : Nat
  /-- `ONE`, the integer that stands for amplitude 1.0. -/
  levelOne : Int
  /-- `PHASE_BITS`, width of the phase accumulator. -/
  phaseBits : Nat
  /-- `HMAX`, the largest harmonic count. -/
  hmax : Nat
  /-- `SINE_ROM` (R182). -/
  sineRom : List Int
  /-- `NOTE_ROM` (R122). -/
  noteRom : List Nat
  /-- `DEF_ATK`, `DEF_DEC`, `DEF_SUS`, `DEF_REL`: the envelope of a new note. -/
  defAtk : BitVec 16
  defDec : BitVec 16
  defSus : BitVec 4
  defRel : BitVec 16
  /-- `MIX_APPLIES_CHVOL` (R213, conflict C1). -/
  mixAppliesChvol : Bool
  deriving DecidableEq, Repr

/-- `OSR = fdiv(FP_HZ, FS_HZ)`, pulses per sample (R6). -/
def ParamTable.osr (P : ParamTable) : Nat := P.fpHz / P.fsHz

/-- `PWM_PERIOD`, the duty value of a 1 bit (R6, R240). -/
def ParamTable.pwmPeriod (P : ParamTable) : BitVec 16 := P.pwmPeriodGiven.getD Config.pwmPeriod

/-- The bounds R6 puts on the parameters. `TICK_BITS`, `ONE` and `PHASE_BITS` have one value each: the rules write the widths and
ranges of the registers as numbers, and the tick's 32 bits (R32, R35), the level's 17 (R12, R41) and the phase's 32 (R35,
R183) hold for these values only (log entry 17). -/
structure ParamTable.Valid (P : ParamTable) : Prop where
  nv_pos : 1 ≤ P.nv
  nv_le : P.nv ≤ 15
  nch_pos : 1 ≤ P.nch
  nch_le : P.nch ≤ 32
  fsHz_pos : 0 < P.fsHz
  osr_pos : 1 ≤ P.osr
  osr_le : P.osr ≤ 65536
  pwmPeriod_pos : 1 ≤ P.pwmPeriod.toNat
  tickBits_eq : P.tickBits = 32
  levelOne_eq : P.levelOne = one
  phaseBits_eq : P.phaseBits = 32
  hmax_pos : 1 ≤ P.hmax
  hmax_le : P.hmax ≤ 15
  sineRom_length : P.sineRom.length = 256
  sineRom_range : ∀ x ∈ P.sineRom, -one ≤ x ∧ x ≤ one
  noteRom_length : P.noteRom.length = 128
  noteRom_range : ∀ f ∈ P.noteRom, f < 2 ^ 14
  defSus_le : P.defSus.toNat ≤ 10

/-- The parameters of one block: a table within the bounds. Everything in the model takes them as an argument (R6, R48); a
configuration outside the bounds is refused (R6) by there being no such term. -/
structure Params extends ParamTable where
  valid : toParamTable.Valid
  deriving DecidableEq, Repr

end Sys2Proof
end

