-- ==== Sys2Proof/Syntax.lean ====
section
/-! DEFINITION. The instructions: one constructor for each row of spec/opcode_table.json (R93, R95, R240). The operands are
the fields of the command word the row reads, each at its full width in the word (R90, R91): the fields are wider than the
legal ranges on purpose, so an out-of-range operand is a legal term here. -/

namespace Sys2Proof

/-- One row of the opcode table with its operand fields. -/
inductive Instr where
  /-- `NOP` (R120). -/
  | nop
  /-- `NOTE_ON channel, note, velocity` (R123). -/
  | noteOn (ch : BitVec 8) (note velocity : BitVec 16)
  /-- `NOTE_OFF channel, note` (R126). -/
  | noteOff (ch : BitVec 8) (note : BitVec 16)
  /-- `ALL_OFF` (R128). -/
  | allOff
  /-- `SET_MVOL volume` (R130). -/
  | setMvol (volume : BitVec 16)
  /-- `SET_CHVOL channel, volume` (R131). -/
  | setChvol (ch : BitVec 8) (volume : BitVec 16)
  /-- `SET_ADSR channel, attack, decay, sustain, release` (R155); the sustain level stands in `aux`. -/
  | setAdsr (ch : BitVec 8) (attack decay : BitVec 16) (sustain : BitVec 4) (release : BitVec 16)
  /-- `SET_ATTACK channel, attack` (R156). -/
  | setAttack (ch : BitVec 8) (attack : BitVec 16)
  /-- `SET_DECAY channel, decay` (R157). -/
  | setDecay (ch : BitVec 8) (decay : BitVec 16)
  /-- `SET_SUSTAIN channel, sustain` (R158). -/
  | setSustain (ch : BitVec 8) (sustain : BitVec 16)
  /-- `SET_RELEASE channel, release` (R159). -/
  | setRelease (ch : BitVec 8) (release : BitVec 16)
  /-- `SET_WAVE channel, wave tag, harmonic count` (R195). -/
  | setWave (ch : BitVec 8) (tag harmonics : BitVec 16)
  /-- `UPDATE` (R161). -/
  | update
  /-- `SAMPLE_TICK` (R210). -/
  | sampleTick
  /-- `DS_PUSH sample`: bits 31:0 as one signed number (R91, R233). -/
  | dsPush (sample : BitVec 32)
  /-- `DS_START` (R236). -/
  | dsStart
  /-- `DS_STOP` (R237). -/
  | dsStop
  /-- `DS_SET_VOL volume` (R238). -/
  | dsSetVol (volume : BitVec 16)
  /-- Reserved words with `op = 0xF, aux = 0x3` (R95). -/
  | reservedF3
  /-- Reserved words with `op = 0xF, aux = 0x4 .. 0x7` (R95); `low` is `aux[1:0]`. -/
  | reservedF4F7 (low : BitVec 2)
  /-- Reserved words with `op = 0xF, aux = 0x8 .. 0xF` (R95); `low` is `aux[2:0]`. -/
  | reservedF8FF (low : BitVec 3)
  /-- `PULSE`: an event of port `pulse_stb`, no command word (R94, R240). -/
  | pulse
  deriving DecidableEq, Repr

/-- The row's mnemonic as spec/opcode_table.json spells it. -/
def Instr.mnemonic : Instr → String
  | .nop => "NOP"
  | .noteOn _ _ _ => "NOTE_ON"
  | .noteOff _ _ => "NOTE_OFF"
  | .allOff => "ALL_OFF"
  | .setMvol _ => "SET_MVOL"
  | .setChvol _ _ => "SET_CHVOL"
  | .setAdsr _ _ _ _ _ => "SET_ADSR"
  | .setAttack _ _ => "SET_ATTACK"
  | .setDecay _ _ => "SET_DECAY"
  | .setSustain _ _ => "SET_SUSTAIN"
  | .setRelease _ _ => "SET_RELEASE"
  | .setWave _ _ _ => "SET_WAVE"
  | .update => "UPDATE"
  | .sampleTick => "SAMPLE_TICK"
  | .dsPush _ => "DS_PUSH"
  | .dsStart => "DS_START"
  | .dsStop => "DS_STOP"
  | .dsSetVol _ => "DS_SET_VOL"
  | .reservedF3 => "RESERVED_F3"
  | .reservedF4F7 _ => "RESERVED_F4_F7"
  | .reservedF8FF _ => "RESERVED_F8_FF"
  | .pulse => "PULSE"

end Sys2Proof
end

