-- ==== Sys2Proof/WellFormed.lean ====
section
/-! DEFINITION. The checks on an instruction. `Instr.wf` says that the term is a command, that is, that a word of the command
port stands for it: the field widths are in the types, so nothing else can be ill-formed (R90, R95: no illegal encoding).
The two range checks are the `Legal range` column of R98, split as R262 and R271 split it: an operand that SELECTS something
and one that SCALES something. The block accepts operands outside both; the checks say what it then does. -/

namespace Sys2Proof

/-- A term that a word of the command port stands for: every constructor but `PULSE` (R94). -/
def Instr.wf : Instr → Bool
  | .pulse => false
  | .nop | .noteOn _ _ _ | .noteOff _ _ | .allOff | .setMvol _ | .setChvol _ _ | .setAdsr _ _ _ _ _ | .setAttack _ _
  | .setDecay _ _ | .setSustain _ _ | .setRelease _ _ | .setWave _ _ _ | .update | .sampleTick | .dsPush _ | .dsStart
  | .dsStop | .dsSetVol _ | .reservedF3 | .reservedF4F7 _ | .reservedF8FF _ => true

/-- Every operand that selects a channel, a note or a wave is in its legal range (R98). -/
def Instr.selectorsInRange (P : Params) : Instr → Bool
  | .noteOn ch note _ => decide (ch.toNat < P.nch ∧ note.toNat ≤ 127)
  | .noteOff ch note => decide (ch.toNat < P.nch ∧ note.toNat ≤ 127)
  | .setChvol ch _ => decide (ch.toNat < P.nch)
  | .setAdsr ch _ _ _ _ => decide (ch.toNat < P.nch)
  | .setAttack ch _ => decide (ch.toNat < P.nch)
  | .setDecay ch _ => decide (ch.toNat < P.nch)
  | .setSustain ch _ => decide (ch.toNat < P.nch)
  | .setRelease ch _ => decide (ch.toNat < P.nch)
  | .setWave ch tag _ => decide (ch.toNat < P.nch ∧ tag.toNat ≤ 4)
  | .nop | .allOff | .setMvol _ | .update | .sampleTick | .dsPush _ | .dsStart | .dsStop | .dsSetVol _ | .reservedF3
  | .reservedF4F7 _ | .reservedF8FF _ | .pulse => true

/-- Every operand that scales something is in its legal range (R98). -/
def Instr.scalersInRange (P : Params) : Instr → Bool
  | .noteOn _ _ velocity => decide (velocity.toNat ≤ 127)
  | .setMvol volume => decide (volume.toNat ≤ 10)
  | .setChvol _ volume => decide (volume.toNat ≤ 10)
  | .setAdsr _ _ _ sustain _ => decide (sustain.toNat ≤ 10)
  | .setSustain _ sustain => decide (sustain.toNat ≤ 10)
  | .setWave _ _ harmonics => decide (harmonics.toNat ≤ P.hmax)
  | .dsPush sample => decide (-one ≤ sample.toInt ∧ sample.toInt ≤ one)
  | .dsSetVol volume => decide ((volume.toNat : Int) ≤ one)
  | .nop | .noteOff _ _ | .allOff | .setAttack _ _ | .setDecay _ _ | .setRelease _ _ | .update | .sampleTick | .dsStart
  | .dsStop | .reservedF3 | .reservedF4F7 _ | .reservedF8FF _ | .pulse => true

/-- The instruction with every scaling operand clamped into its legal range (R262): what the block executes in its place. -/
def Instr.clampScalers (P : Params) : Instr → Instr
  | .noteOn ch note velocity => .noteOn ch note (BitVec.ofNat 16 (min velocity.toNat 127))
  | .setMvol volume => .setMvol (BitVec.ofNat 16 (min volume.toNat 10))
  | .setChvol ch volume => .setChvol ch (BitVec.ofNat 16 (min volume.toNat 10))
  | .setAdsr ch attack decay sustain release =>
    .setAdsr ch attack decay (BitVec.ofNat 4 (min sustain.toNat 10)) release
  | .setSustain ch sustain => .setSustain ch (BitVec.ofNat 16 (min sustain.toNat 10))
  | .setWave ch tag harmonics => .setWave ch tag (BitVec.ofNat 16 (min harmonics.toNat P.hmax))
  | .dsPush sample => .dsPush (BitVec.ofInt 32 (max (-one) (min sample.toInt one)))
  | .dsSetVol volume => .dsSetVol (BitVec.ofNat 16 (min volume.toNat one.toNat))
  | .nop => .nop
  | .noteOff ch note => .noteOff ch note
  | .allOff => .allOff
  | .setAttack ch attack => .setAttack ch attack
  | .setDecay ch decay => .setDecay ch decay
  | .setRelease ch release => .setRelease ch release
  | .update => .update
  | .sampleTick => .sampleTick
  | .dsStart => .dsStart
  | .dsStop => .dsStop
  | .reservedF3 => .reservedF3
  | .reservedF4F7 low => .reservedF4F7 low
  | .reservedF8FF low => .reservedF8FF low
  | .pulse => .pulse

end Sys2Proof
end

