-- ==== Sys2Proof/Decode.lean ====
section
/-! DEFINITION. The command word: its fields (R90, R91), the decoder of the command port, total on all 2^64 words (R93, R95),
the encoder, the opcode table as rows of match and mask (R93), and the listing reader of R94. -/

namespace Sys2Proof

/-! ### The word's fields (R90) -/

/-- `op = word[63:60]`. -/
def Word.op (w : Word) : BitVec 4 := w.extractLsb' 60 4
/-- `aux = word[59:56]`. -/
def Word.aux (w : Word) : BitVec 4 := w.extractLsb' 56 4
/-- `ch = word[55:48]`. -/
def Word.ch (w : Word) : BitVec 8 := w.extractLsb' 48 8
/-- `a = word[47:32]`. -/
def Word.a (w : Word) : BitVec 16 := w.extractLsb' 32 16
/-- `b = word[31:16]`. -/
def Word.b (w : Word) : BitVec 16 := w.extractLsb' 16 16
/-- `c = word[15:0]`. -/
def Word.c (w : Word) : BitVec 16 := w.extractLsb' 0 16
/-- `word[31:0]`, the operand of `DS_PUSH` (R91). -/
def Word.low32 (w : Word) : BitVec 32 := w.extractLsb' 0 32

/-- `op * 2^60 + aux * 2^56 + ch * 2^48 + a * 2^32 + b * 2^16 + c` (R90). -/
def cw (op aux : BitVec 4) (ch : BitVec 8) (a b c : BitVec 16) : Word := op ++ aux ++ ch ++ a ++ b ++ c

/-! ### Decoding at the command port -/

/-- The rows with `op = 0xF`, told apart by `aux` (R93, R95). -/
def decodeExtended (w : Word) : Instr :=
  match w.aux.toNat with
  | 0x0 => .dsStart
  | 0x1 => .dsStop
  | 0x2 => .dsSetVol w.a
  | 0x3 => .reservedF3
  | 0x4 | 0x5 | 0x6 | 0x7 => .reservedF4F7 (w.aux.extractLsb' 0 2)
  | _ => .reservedF8FF (w.aux.extractLsb' 0 3)

/-- The decoder of the command port (R93): `op` first, then `aux` where `op = 0xF`. It has no refusal, because every word
is a command or reserved (R95). It never answers `PULSE` (R94). -/
def decode (w : Word) : Instr :=
  match w.op.toNat with
  | 0x0 => .nop
  | 0x1 => .noteOn w.ch w.a w.b
  | 0x2 => .noteOff w.ch w.a
  | 0x3 => .allOff
  | 0x4 => .setMvol w.a
  | 0x5 => .setChvol w.ch w.a
  | 0x6 => .setAdsr w.ch w.a w.b w.aux w.c
  | 0x7 => .setAttack w.ch w.a
  | 0x8 => .setDecay w.ch w.a
  | 0x9 => .setSustain w.ch w.a
  | 0xA => .setRelease w.ch w.a
  | 0xB => .setWave w.ch w.a w.b
  | 0xC => .update
  | 0xD => .sampleTick
  | 0xE => .dsPush w.low32
  | _ => decodeExtended w

/-! ### Encoding -/

/-- The word a listing, and spec/opcode_table.json, writes for a `PULSE` event (R94). -/
def pulseListingWord : Word := 0xFF00000000000000#64

/-- The command word of an instruction, every unused field 0 (R92). `PULSE` has no command word; for it this is the word
listings write (R94), and `Instr.wf` tells it apart. -/
def encode : Instr → Word
  | .nop => cw 0x0 0 0 0 0 0
  | .noteOn ch note velocity => cw 0x1 0 ch note velocity 0
  | .noteOff ch note => cw 0x2 0 ch note 0 0
  | .allOff => cw 0x3 0 0 0 0 0
  | .setMvol volume => cw 0x4 0 0 volume 0 0
  | .setChvol ch volume => cw 0x5 0 ch volume 0 0
  | .setAdsr ch attack decay sustain release => cw 0x6 sustain ch attack decay release
  | .setAttack ch attack => cw 0x7 0 ch attack 0 0
  | .setDecay ch decay => cw 0x8 0 ch decay 0 0
  | .setSustain ch sustain => cw 0x9 0 ch sustain 0 0
  | .setRelease ch release => cw 0xA 0 ch release 0 0
  | .setWave ch tag harmonics => cw 0xB 0 ch tag harmonics 0
  | .update => cw 0xC 0 0 0 0 0
  | .sampleTick => cw 0xD 0 0 0 0 0
  | .dsPush sample => cw 0xE 0 0 0 (sample.extractLsb' 16 16) (sample.extractLsb' 0 16)
  | .dsStart => cw 0xF 0x0 0 0 0 0
  | .dsStop => cw 0xF 0x1 0 0 0 0
  | .dsSetVol volume => cw 0xF 0x2 0 volume 0 0
  | .reservedF3 => cw 0xF 0x3 0 0 0 0
  | .reservedF4F7 low => cw 0xF (0b01#2 ++ low) 0 0 0 0
  | .reservedF8FF low => cw 0xF (0b1#1 ++ low) 0 0 0 0
  | .pulse => pulseListingWord

/-! ### The opcode table as match and mask (R93) -/

/-- One row of spec/opcode_table.json. -/
structure OpcodeRow where
  mnemonic : String
  pattern : Word
  mask : Word
  deriving DecidableEq, Repr

/-- The row's bits are in the word: `word AND mask = match` (R93). -/
def OpcodeRow.covers (r : OpcodeRow) (w : Word) : Bool := w &&& r.mask == r.pattern

/-- The 21 rows of the command port (R93, R95). -/
def commandRows : List OpcodeRow := [
  ⟨"NOP", 0x0000000000000000, 0xF000000000000000⟩,
  ⟨"NOTE_ON", 0x1000000000000000, 0xF000000000000000⟩,
  ⟨"NOTE_OFF", 0x2000000000000000, 0xF000000000000000⟩,
  ⟨"ALL_OFF", 0x3000000000000000, 0xF000000000000000⟩,
  ⟨"SET_MVOL", 0x4000000000000000, 0xF000000000000000⟩,
  ⟨"SET_CHVOL", 0x5000000000000000, 0xF000000000000000⟩,
  ⟨"SET_ADSR", 0x6000000000000000, 0xF000000000000000⟩,
  ⟨"SET_ATTACK", 0x7000000000000000, 0xF000000000000000⟩,
  ⟨"SET_DECAY", 0x8000000000000000, 0xF000000000000000⟩,
  ⟨"SET_SUSTAIN", 0x9000000000000000, 0xF000000000000000⟩,
  ⟨"SET_RELEASE", 0xA000000000000000, 0xF000000000000000⟩,
  ⟨"SET_WAVE", 0xB000000000000000, 0xF000000000000000⟩,
  ⟨"UPDATE", 0xC000000000000000, 0xF000000000000000⟩,
  ⟨"SAMPLE_TICK", 0xD000000000000000, 0xF000000000000000⟩,
  ⟨"DS_PUSH", 0xE000000000000000, 0xF000000000000000⟩,
  ⟨"DS_START", 0xF000000000000000, 0xFF00000000000000⟩,
  ⟨"DS_STOP", 0xF100000000000000, 0xFF00000000000000⟩,
  ⟨"DS_SET_VOL", 0xF200000000000000, 0xFF00000000000000⟩,
  ⟨"RESERVED_F3", 0xF300000000000000, 0xFF00000000000000⟩,
  ⟨"RESERVED_F4_F7", 0xF400000000000000, 0xFC00000000000000⟩,
  ⟨"RESERVED_F8_FF", 0xF800000000000000, 0xF800000000000000⟩]

/-! ### Reading a table word -/

/-- The listing reader of R94: the one word that listings write for a `PULSE` event stands for it, every other word is read
as the command port reads it. This is no decoder of the command port, which reads that word as reserved (log entry 9). -/
def decodeListing (w : Word) : Instr := if w = pulseListingWord then .pulse else decode w

/-- The word of which the table numbers `nbits` bits; the bits above them are 0. The block has no bytes and no byte order
(R73), so the word is the number itself. -/
def tableWord (nbits w : Nat) : Word := BitVec.ofNat 64 (w % 2 ^ nbits)

/-- The instruction of a row of spec/opcode_table.json whose bits are `w`: no instruction has more than 64 bits (R97), and
every word of 64 bits is read. -/
def decodeTableWord (nbits w : Nat) : Option Instr :=
  if nbits ≤ 64 then some (decodeListing (tableWord nbits w)) else none

end Sys2Proof
end

