-- ==== Sys2Proof/Machine/Arith.lean ====
section
/-! DEFINITION. The arithmetic primitives of R9 on unbounded integers, and the narrowing into a register. -/

namespace Sys2Proof.Machine

/-- `fdiv(a, b)`, floor division (R9, R322). Every use has a positive divisor, for which Lean's `/` on `Int` is the floor
(`Sys2Proof.Laws.fdiv_spec`). -/
def fdiv (a b : Int) : Int := a / b

/-- `clamp(x, lo, hi)` (R9). -/
def clamp (x lo hi : Int) : Int := if x < lo then lo else if hi < x then hi else x

/-- The clamp of a level to `[-ONE, ONE]` (R188, R214, R232). -/
def clampLevel (x : Int) : Int := clamp x (-one) one

/-- Writing an integer into a 17-bit signed register (R40, R41). Nothing is lost for a value in `[-65536, 65535]`. -/
def toQ15 (x : Int) : Q15 := BitVec.ofInt 17 x

/-- `elapsed(now, t0) = (now - t0) mod 2^32` (R13). -/
def elapsed (now t0 : Tick) : Nat := (now - t0).toNat

end Sys2Proof.Machine
end

