-- ==== Sys2Proof/Machine/Rom.lean ====
section
/-! DEFINITION. The two constant tables, as R122 and R182 print them, and the default parameters of R6. -/

namespace Sys2Proof.Machine

/-! ### `SINE_ROM` (R182), sixteen entries a row as in the spec -/

/-- Entries 0 to 15. -/
def sineRow0 : List Int :=
  [0, 804, 1608, 2411, 3212, 4011, 4808, 5602, 6393, 7180, 7962, 8740, 9512, 10279, 11039, 11793]

/-- Entries 16 to 31. -/
def sineRow1 : List Int :=
  [12540, 13279, 14010, 14733, 15447, 16151, 16846, 17531, 18205, 18868, 19520, 20160, 20788, 21403, 22006, 22595]

/-- Entries 32 to 47. -/
def sineRow2 : List Int :=
  [23170, 23732, 24279, 24812, 25330, 25833, 26320, 26791, 27246, 27684, 28106, 28511, 28899, 29269, 29622, 29957]

/-- Entries 48 to 63. -/
def sineRow3 : List Int :=
  [30274, 30572, 30853, 31114, 31357, 31581, 31786, 31972, 32138, 32286, 32413, 32522, 32610, 32679, 32729, 32758]

/-- Entries 64 to 79. -/
def sineRow4 : List Int :=
  [32768, 32758, 32729, 32679, 32610, 32522, 32413, 32286, 32138, 31972, 31786, 31581, 31357, 31114, 30853, 30572]

/-- Entries 80 to 95. -/
def sineRow5 : List Int :=
  [30274, 29957, 29622, 29269, 28899, 28511, 28106, 27684, 27246, 26791, 26320, 25833, 25330, 24812, 24279, 23732]

/-- Entries 96 to 111. -/
def sineRow6 : List Int :=
  [23170, 22595, 22006, 21403, 20788, 20160, 19520, 18868, 18205, 17531, 16846, 16151, 15447, 14733, 14010, 13279]

/-- Entries 112 to 127. -/
def sineRow7 : List Int :=
  [12540, 11793, 11039, 10279, 9512, 8740, 7962, 7180, 6393, 5602, 4808, 4011, 3212, 2411, 1608, 804]

/-- Entries 128 to 143. -/
def sineRow8 : List Int :=
  [0, -804, -1608, -2411, -3212, -4011, -4808, -5602, -6393, -7180, -7962, -8740, -9512, -10279, -11039, -11793]

/-- Entries 144 to 159. -/
def sineRow9 : List Int :=
  [-12540, -13279, -14010, -14733, -15447, -16151, -16846, -17531, -18205, -18868, -19520, -20160, -20788, -21403, -22006, -22595]

/-- Entries 160 to 175. -/
def sineRow10 : List Int :=
  [-23170, -23732, -24279, -24812, -25330, -25833, -26320, -26791, -27246, -27684, -28106, -28511, -28899, -29269, -29622, -29957]

/-- Entries 176 to 191. -/
def sineRow11 : List Int :=
  [-30274, -30572, -30853, -31114, -31357, -31581, -31786, -31972, -32138, -32286, -32413, -32522, -32610, -32679, -32729, -32758]

/-- Entries 192 to 207. -/
def sineRow12 : List Int :=
  [-32768, -32758, -32729, -32679, -32610, -32522, -32413, -32286, -32138, -31972, -31786, -31581, -31357, -31114, -30853, -30572]

/-- Entries 208 to 223. -/
def sineRow13 : List Int :=
  [-30274, -29957, -29622, -29269, -28899, -28511, -28106, -27684, -27246, -26791, -26320, -25833, -25330, -24812, -24279, -23732]

/-- Entries 224 to 239. -/
def sineRow14 : List Int :=
  [-23170, -22595, -22006, -21403, -20788, -20160, -19520, -18868, -18205, -17531, -16846, -16151, -15447, -14733, -14010, -13279]

/-- Entries 240 to 255. -/
def sineRow15 : List Int :=
  [-12540, -11793, -11039, -10279, -9512, -8740, -7962, -7180, -6393, -5602, -4808, -4011, -3212, -2411, -1608, -804]

/-- The default `SINE_ROM` of R182: `round(ONE * sin(2 pi i / 256))`. -/
def sineTable : List Int :=
  sineRow0 ++ sineRow1 ++ sineRow2 ++ sineRow3 ++ sineRow4 ++ sineRow5 ++ sineRow6 ++ sineRow7 ++
  sineRow8 ++ sineRow9 ++ sineRow10 ++ sineRow11 ++ sineRow12 ++ sineRow13 ++ sineRow14 ++ sineRow15

/-! ### `NOTE_ROM` (R122), sixteen entries a row as in the spec -/

/-- Entries 0 to 15. -/
def noteRow0 : List Nat :=
  [0, 9, 9, 10, 10, 11, 12, 12, 13, 14, 15, 15, 16, 17, 18, 19]

/-- Entries 16 to 31. -/
def noteRow1 : List Nat :=
  [21, 22, 23, 24, 26, 28, 29, 31, 33, 35, 37, 39, 41, 44, 46, 49]

/-- Entries 32 to 47. -/
def noteRow2 : List Nat :=
  [52, 55, 58, 62, 65, 69, 73, 78, 82, 87, 92, 98, 104, 110, 117, 123]

/-- Entries 48 to 63. -/
def noteRow3 : List Nat :=
  [131, 139, 147, 156, 165, 175, 185, 196, 208, 220, 233, 247, 262, 277, 294, 311]

/-- Entries 64 to 79. -/
def noteRow4 : List Nat :=
  [330, 349, 370, 392, 415, 440, 466, 494, 523, 554, 587, 622, 659, 698, 740, 784]

/-- Entries 80 to 95. -/
def noteRow5 : List Nat :=
  [831, 880, 932, 988, 1047, 1109, 1175, 1245, 1319, 1397, 1480, 1568, 1661, 1760, 1865, 1976]

/-- Entries 96 to 111. -/
def noteRow6 : List Nat :=
  [2093, 2217, 2349, 2489, 2637, 2794, 2960, 3136, 3322, 3520, 3729, 3951, 4186, 4435, 4699, 4978]

/-- Entries 112 to 127. -/
def noteRow7 : List Nat :=
  [5274, 5588, 5920, 6272, 6645, 7040, 7459, 7902, 8372, 8870, 9397, 9956, 10548, 11175, 11840, 12544]

/-- The default `NOTE_ROM` of R122: whole hertz of each note number, note 0 being the silence sentinel. -/
def noteTable : List Nat :=
  noteRow0 ++ noteRow1 ++ noteRow2 ++ noteRow3 ++ noteRow4 ++ noteRow5 ++ noteRow6 ++ noteRow7

/-- The defaults of R6, with the OPEN parameter left OPEN (log entries 1, 2). -/
def paramTable : ParamTable where
  nv := 8
  nch := 17
  fsHz := 44100
  fpHz := 1000000
  pwmPeriodGiven := none
  tickBits := 32
  levelOne := 32768
  phaseBits := 32
  hmax := 15
  sineRom := sineTable
  noteRom := noteTable
  defAtk := 50
  defDec := 100
  defSus := 7
  defRel := 200
  mixAppliesChvol := false

/-- The defaults are within the bounds of R6. -/
theorem paramTable_valid : paramTable.Valid where
  nv_pos := by decide
  nv_le := by decide
  nch_pos := by decide
  nch_le := by decide
  fsHz_pos := by decide
  osr_pos := by decide
  osr_le := by decide
  pwmPeriod_pos := by
    have h := Config.pwmPeriodLessOne.isLt
    simp only [ParamTable.pwmPeriod, paramTable, Option.getD_none, Config.pwmPeriod, BitVec.toNat_ofNat]
    omega
  tickBits_eq := rfl
  levelOne_eq := rfl
  phaseBits_eq := rfl
  hmax_pos := by decide
  hmax_le := by decide
  sineRom_length := by decide +kernel
  sineRom_range := by decide +kernel
  noteRom_length := by decide +kernel
  noteRom_range := by decide +kernel
  defSus_le := by decide

/-- The default parameters of R6: what `State.reset` holds (log entry 1). A statement that rests on one of these numbers says so
(R7). -/
def params : Params := { paramTable with valid := paramTable_valid }

end Sys2Proof.Machine
end

