-- ==== Sys2Proof/Machine/State.lean ====
section
/-! DEFINITION. The state as plain data. `Block P` is the state of the block itself, for the parameters `P` (R47): the voice pool
(R35), the channel table (R39), the global registers (R40) and the encoder registers (R41). R48 makes the parameters, the
ROMs and the values on the input ports arguments of the step and no fields of the state: `blockStep` (Machine/BlockStep.lean) is
that step, and `Block P` that state. The host's `step` has no argument but its `State`, so the host's `State` is a block with the
arguments of its coming steps BESIDE it, as fields of the model's own (log entries 1, 5).
The block has no general registers (R30), no program counter (R31), no flags register (R43), no memory (R70), no saved or
pending exception or interrupt state (R272, R270, R47) and no mode (R275). -/

namespace Sys2Proof.Machine

/-- The waveforms of R180. Tags 5 to 7 are used by no voice and no channel, so the register is a name and not a number. -/
inductive WaveTag where
  | sine
  | square
  | saw
  | triangle
  | noise
  deriving DecidableEq, Repr

/-- One voice of the pool, the fields of R35. -/
structure Voice (P : Params) where
  /-- `ACTIVE`: the voice is in use. -/
  active : Bool
  /-- `RELEASED`: note-off has been received. -/
  released : Bool
  /-- `CH`: logical channel id, `0 .. NCH-1`. It is an index of the channel table and nothing else. -/
  ch : Fin P.nch
  /-- `FREQ`: target frequency in whole hertz. -/
  freq : BitVec 14
  /-- `VEL`: velocity. -/
  vel : BitVec 7
  /-- `START`: tick at note-on. -/
  start : Tick
  /-- `REL_TICK`: tick at note-off, meaningful while `RELEASED = 1`. -/
  relTick : Tick
  /-- `ATK`: attack duration in ms. -/
  atk : BitVec 16
  /-- `DEC`: decay duration in ms. -/
  dec : BitVec 16
  /-- `SUS`: sustain level, `0 .. 10`. -/
  sus : BitVec 4
  /-- `REL`: release duration in ms. -/
  rel : BitVec 16
  /-- `WAVE`: wave-type tag. -/
  wave : WaveTag
  /-- `HARM`: harmonic count; 0 selects the plain generator. -/
  harm : BitVec 4
  /-- `PHASE`: phase accumulator; `2^32` is one period (R181). -/
  phase : BitVec 32
  /-- `INC`: phase increment per sample tick. -/
  inc : BitVec 32
  deriving DecidableEq, Repr

/-- One entry of the channel table, the fields of R39. -/
structure Channel where
  /-- `VOL`: channel volume, `0 .. 10`. -/
  vol : BitVec 4
  /-- `WAVE`: wave-type tag a new note on this channel gets. -/
  wave : WaveTag
  /-- `HARM`: harmonic count a new note on this channel gets. -/
  harm : BitVec 4
  deriving DecidableEq, Repr

/-- The encoder registers of R41. -/
structure Encoder where
  /-- `BUF_CUR`: most recent sample. -/
  bufCur : Q15
  /-- `BUF_PREV`: previous sample. -/
  bufPrev : Q15
  /-- `DS_ERR`: running quantisation error, in units of `2^-16` of full scale (R241). -/
  err : Q15
  /-- `DS_PHASE`: interpolation position, `0 .. OSR-1`. -/
  phase : BitVec 16
  /-- `DS_VOL`: volume scalar, `0 .. ONE`. -/
  vol : BitVec 16
  /-- `DS_RUN`: running or stopped (R231). -/
  run : Bool
  /-- `DS_BIT`: last emitted bit. -/
  bit : Bool
  /-- `PWM_EN`: PWM output enable of the sink. -/
  pwmEn : Bool
  /-- `PWM_DUTY`: duty register of the sink, 0 or `PWM_PERIOD`. -/
  pwmDuty : BitVec 16
  deriving DecidableEq, Repr

/-- The state of the block with parameters `P`; it has no state beyond this (R47). -/
structure Block (P : Params) where
  /-- The voice pool, `V[0]` to `V[NV-1]` (R35). -/
  voices : Vector (Voice P) P.nv
  /-- The channel table, `CH[0]` to `CH[NCH-1]` (R39). -/
  chans : Vector Channel P.nch
  /-- `MVOL`: master volume, `0 .. 10` (R40). -/
  mvol : BitVec 4
  /-- `MIX_OUT`: last mixed sample (R40). -/
  mixOut : Q15
  /-- The encoder registers (R41). -/
  enc : Encoder
  deriving DecidableEq, Repr

/-- An event (R14) as R94 asks for it: a command word with the port values it samples, a pulse strobe, or reset. -/
inductive Event (P : Params) where
  /-- A word accepted at the command port, with the values of ports `now` and `noise_in` at that moment (R33, R34); the
  noise values are numbered by the voice that would take them (R99, R212). -/
  | cmd (word : Word) (now : Tick) (noise : Vector Q15 P.nv)
  /-- One assertion of port `pulse_stb`. -/
  | pulse
  /-- Port `rst` asserted. -/
  | reset
  deriving DecidableEq, Repr

/-- What the host's `step` works on: the block, and beside it the MODEL's own fields. -/
structure State where
  /-- The MODEL's field, not the block's: the argument `P` of `blockStep`, the parameters and ROMs of this block (R6, R48). No
  step changes them. -/
  params : Params
  /-- The block's state. -/
  block : Block params
  /-- The MODEL's field, not the block's: the value of port `now` that the command being executed samples (R33). -/
  now : Tick
  /-- The MODEL's field, not the block's: the values port `noise_in` has for that command (R34). Nothing constrains them. -/
  noise : Vector Q15 params.nv
  /-- The MODEL's field, not the block's (the command port has no queue, R47): the events the outside will still cause,
  in the total order of R75. -/
  pending : List (Event params)
  deriving DecidableEq, Repr

/-- The same with another state of the block: what an instruction leaves. -/
def State.withBlock (s : State) (b : Block s.params) : State := { s with block := b }

/-- The reasons for which the block stops: there are none (R260, R281), so there is no constructor. -/
inductive Fault where
  deriving DecidableEq, Repr

/-- The reasons for which the model has no meaning to give. -/
inductive Refusal where
  /-- Raised by an arm of `exec` whose instruction has no meaning yet, naming it. Safe. No arm of this model raises it. -/
  | notModelled (mnemonic : String)
  deriving DecidableEq, Repr

/-- A voice after reset: `ACTIVE` and `RELEASED` as R49 gives them, every other field 0 (R49: unspecified, "a model may use
0"; DESIGN CHOICE, log entry 3). -/
def Voice.reset (P : Params) : Voice P where
  active := false
  released := false
  ch := ⟨0, P.valid.nch_pos⟩
  freq := 0
  vel := 0
  start := 0
  relTick := 0
  atk := 0
  dec := 0
  sus := 0
  rel := 0
  wave := .sine
  harm := 0
  phase := 0
  inc := 0

/-- A channel after reset (R49). -/
def Channel.reset : Channel where
  vol := 10
  wave := .sine
  harm := 0

/-- The encoder after reset: stopped, zeroed, unit volume (R49). -/
def Encoder.reset : Encoder where
  bufCur := 0
  bufPrev := 0
  err := 0
  phase := 0
  vol := 32768
  run := false
  bit := false
  pwmEn := false
  pwmDuty := 0

/-- The block after `RESET` (R49). -/
def Block.reset (P : Params) : Block P where
  voices := Vector.replicate P.nv (Voice.reset P)
  chans := Vector.replicate P.nch Channel.reset
  mvol := 10
  mixOut := 0
  enc := Encoder.reset

/-- A block with parameters `P` after `RESET`, in a quiet environment: tick 0, noise 0, no event (DESIGN CHOICE, log entry 4). -/
def State.resetWith (P : Params) : State where
  params := P
  block := Block.reset P
  now := 0
  noise := Vector.replicate P.nv 0
  pending := []

/-- The state after `RESET` of the block with the default parameters of R6 (DESIGN CHOICE, log entry 1). -/
def State.reset : State := State.resetWith Sys2Proof.Machine.params

end Sys2Proof.Machine
end

