-- ==== Sys2Proof/Machine/Flags.lean ====
section
/-! DEFINITION. The one-bit state of the block (R43) and the tests on it. There are no condition codes, and no command sets a
flag as a side effect of arithmetic, so there is no flag computation beside these. -/

namespace Sys2Proof.Machine

variable {P : Params}

/-- Active and sounding: `ACTIVE = 1, RELEASED = 0` (R36). -/
def Voice.sounding (v : Voice P) : Bool := v.active && !v.released

/-- Active and releasing: `ACTIVE = 1, RELEASED = 1` (R36). -/
def Voice.releasing (v : Voice P) : Bool := v.active && v.released

/-- Active on a channel, sounding or releasing: what the envelope setters act on (R155 (a)) and `ch_active` counts (R45). -/
def Voice.activeOn (v : Voice P) (c : Fin P.nch) : Bool := v.active && v.ch == c

/-- The voice `NOTE_OFF` looks for: sounding, on the channel, with the note's frequency (R126). -/
def Voice.plays (v : Voice P) (c : Fin P.nch) (f : BitVec 14) : Bool := v.sounding && v.ch == c && v.freq == f

/-- A releasing voice whose release time is up: `((now - REL_TICK) mod 2^32) >= REL` (R160). -/
def Voice.finished (v : Voice P) (now : Tick) : Bool := v.releasing && decide (v.rel.toNat ≤ elapsed now v.relTick)

end Sys2Proof.Machine
end

