-- ==== Sys2Proof/Machine/Operands.lean ====
section
/-! DEFINITION. The operand forms (R98, R262): an operand that selects something is read as an option, `none` where it is out
of range and the command is ignored; an operand that scales something is clamped. -/

namespace Sys2Proof.Machine

/-! ### Selecting operands -/

/-- The channel a `ch` field selects; `none` for `ch >= NCH` (R98). -/
def chan? (P : Params) (ch : BitVec 8) : Option (Fin P.nch) :=
  if h : ch.toNat < P.nch then some ⟨ch.toNat, h⟩ else none

/-- The note number an `a` field selects; `none` above 127 (R98). -/
def note? (a : BitVec 16) : Option Nat := if a.toNat ≤ 127 then some a.toNat else none

/-- The waveform an `a` field selects (R180); `none` above 4 (R195). -/
def waveTag? (a : BitVec 16) : Option WaveTag :=
  match a.toNat with
  | 0 => some .sine
  | 1 => some .square
  | 2 => some .saw
  | 3 => some .triangle
  | 4 => some .noise
  | _ => none

/-- The number of a waveform (R180), the contents of its 3-bit register. -/
def WaveTag.code : WaveTag → BitVec 3
  | .sine => 0
  | .square => 1
  | .saw => 2
  | .triangle => 3
  | .noise => 4

/-! ### Scaling operands -/

/-- `min(b, 127)`, velocity (R123). -/
def velocity (b : BitVec 16) : BitVec 7 := BitVec.ofNat 7 (min b.toNat 127)

/-- `min(a, 10)`, a volume or a sustain level (R130, R131, R155, R158). -/
def level10 {w : Nat} (a : BitVec w) : BitVec 4 := BitVec.ofNat 4 (min a.toNat 10)

/-- `min(b, HMAX)`, harmonic count (R195). -/
def harmonics (P : Params) (b : BitVec 16) : BitVec 4 := BitVec.ofNat 4 (min b.toNat P.hmax)

/-- `min(a, ONE)`, encoder volume (R238). -/
def encoderVolume (a : BitVec 16) : BitVec 16 := BitVec.ofNat 16 (min a.toNat one.toNat)

/-- `sext_32(word[31:0])`, the sample of `DS_PUSH` (R91, R233). -/
def pushedSample (x : BitVec 32) : Int := x.toInt

/-- The sample a noise voice makes of the value it takes from port `noise_in`: `clamp(n, -ONE, ONE)` (R34, R188). -/
def noiseSample (n : Q15) : Int := clampLevel n.toInt

/-! ### What `NOTE_ON` looks up -/

/-- `NOTE_ROM[n]` (R122), a 14-bit frequency. -/
def noteFreq (P : Params) (n : Nat) : BitVec 14 := BitVec.ofNat 14 (P.noteRom.getD n 0)

/-- `INC = fdiv(FREQ * 2^32, FS_HZ) mod 2^32` (R125). -/
def phaseInc (P : Params) (f : BitVec 14) : BitVec 32 := BitVec.ofNat 32 (f.toNat * 2 ^ 32 / P.fsHz)

end Sys2Proof.Machine
end

