-- ==== Sys2Proof/Machine/Ops.lean ====
section
/-! DEFINITION. The named operations on the block that the commands share. All writes to the voice pool go through
`Block.mapVoices`, all writes to the channel table through `Block.updChan`, all writes to the encoder registers through
`Block.updEnc`. There is no memory operation (R70), and no operation that takes an exception or returns from one: the block
raises none and has no return from one (R260, R272, R273). -/

namespace Sys2Proof.Machine

variable {P : Params}

/-! ### The voice pool -/

/-- A loop over the pool in which each voice is rewritten from itself (R11: the loops of the spec read no other voice). -/
def Block.mapVoices (f : Fin P.nv → Voice P → Voice P) (b : Block P) : Block P :=
  { b with voices := Vector.ofFn fun i => f i b.voices[i] }

/-- Rewrites the one voice of index `i`. -/
def Block.updVoice (i : Nat) (f : Voice P → Voice P) (b : Block P) : Block P :=
  b.mapVoices fun j v => if j.val = i then f v else v

/-- The loop of the envelope setters: every active voice on the channel (R155 to R159). -/
def Block.retune (c : Fin P.nch) (f : Voice P → Voice P) (b : Block P) : Block P :=
  b.mapVoices fun _ v => if v.activeOn c then f v else v

/-- An envelope setter on the channel of its `ch` field: `if ch < NCH`, the loop; else nothing (R155 to R159). -/
def Block.retuneOn (ch : BitVec 8) (f : Voice P → Voice P) (b : Block P) : Block P :=
  match chan? P ch with
  | some c => b.retune c f
  | none => b

/-- The smallest index whose `START` is no larger than any `START` of the pool, compared as plain unsigned numbers (R124);
the length of an empty pool. -/
def oldestVoice (pool : List (Voice P)) : Nat :=
  pool.findIdx fun v => pool.all fun w => decide (v.start.toNat ≤ w.start.toNat)

/-- `pick_voice()` (R124): the lowest free voice; where there is none, the oldest. -/
def pickVoice (pool : List (Voice P)) : Nat :=
  match pool.findIdx? fun v => !v.active with
  | some i => i
  | none => oldestVoice pool

/-- The lowest voice that `NOTE_OFF` releases (R126), if there is one. -/
def findPlaying (c : Fin P.nch) (f : BitVec 14) (pool : List (Voice P)) : Option Nat :=
  pool.findIdx? fun v => v.plays c f

/-- `retire(now)` (R160). -/
def Block.retire (now : Tick) (b : Block P) : Block P :=
  b.mapVoices fun _ v => if v.finished now then { v with active := false } else v

/-- The phase advance of `SAMPLE_TICK` (R211). -/
def Block.advance (b : Block P) : Block P :=
  b.mapVoices fun _ v => if v.active then { v with phase := v.phase + v.inc } else v

/-! ### The channel table -/

/-- Rewrites the one entry of channel `c`. -/
def Block.updChan (c : Fin P.nch) (f : Channel → Channel) (b : Block P) : Block P :=
  { b with chans := Vector.ofFn fun d => if d = c then f b.chans[d] else b.chans[d] }

/-! ### The encoder registers -/

/-- Rewrites the encoder registers. -/
def Block.updEnc (f : Encoder → Encoder) (b : Block P) : Block P := { b with enc := f b.enc }

/-- `push(x)` on the encoder registers (R232): both slots in one event (R76). -/
def Encoder.push (x : Int) (e : Encoder) : Encoder :=
  { e with bufPrev := e.bufCur, bufCur := toQ15 (clampLevel x) }

/-- `push(x)` (R232). -/
def Block.push (x : Int) (b : Block P) : Block P := b.updEnc (Encoder.push x)

end Sys2Proof.Machine
end

