-- ==== Sys2Proof/Machine/VoiceControl.lean ====
section
/-! DEFINITION. The commands of spec/40_voice_control.md, and the reserved words, which act as `NOP` (R95). `Block.<name>` is
what a command leaves of the block, the parameters, the tick and the noise values its arguments (R48); `exec<Name>` feeds it
from the host's state. -/

namespace Sys2Proof.Machine

variable {P : Params}

/-- What a command answers: every command completes (R260). -/
abbrev Result := Host.Outcome State Fault Refusal

/-- `NOP`: no state and no output changes (R120). -/
def execNop (s : State) : Result := .next s

/-- Reserved words `aux = 0x3`: exactly like `NOP` (R95). -/
def execReservedF3 (s : State) : Result := .next s

/-- Reserved words `aux = 0x4 .. 0x7`: exactly like `NOP` (R95). -/
def execReservedF4F7 (_low : BitVec 2) (s : State) : Result := .next s

/-- Reserved words `aux = 0x8 .. 0xF`: exactly like `NOP` (R95). -/
def execReservedF8FF (_low : BitVec 3) (s : State) : Result := .next s

/-- The voice `NOTE_ON` leaves in the place of `v`: every field but `REL_TICK` is written (R123). -/
def Voice.noteOn (c : Fin P.nch) (entry : Channel) (n : Nat) (vel : BitVec 7) (now : Tick) (v : Voice P) : Voice P :=
  { v with
    active := true
    released := false
    ch := c
    freq := noteFreq P n
    vel := vel
    start := now
    atk := P.defAtk
    dec := P.defDec
    sus := P.defSus
    rel := P.defRel
    wave := entry.wave
    harm := entry.harm
    phase := 0
    inc := phaseInc P (noteFreq P n) }

/-- What `NOTE_ON` leaves (R123): ignored for a channel or note out of range, else never rejected (R263). -/
def Block.noteOn (ch : BitVec 8) (note vel : BitVec 16) (now : Tick) (b : Block P) : Block P :=
  match chan? P ch, note? note with
  | some c, some n => b.updVoice (pickVoice b.voices.toList) (Voice.noteOn c b.chans[c] n (velocity vel) now)
  | _, _ => b

/-- `NOTE_ON` (R123). -/
def execNoteOn (ch : BitVec 8) (note vel : BitVec 16) (s : State) : Result :=
  .next (s.withBlock (s.block.noteOn ch note vel s.now))

/-- The voice `NOTE_OFF` leaves in the place of `v` (R126). -/
def Voice.noteOff (now : Tick) (v : Voice P) : Voice P := { v with released := true, relTick := now }

/-- What `NOTE_OFF` leaves (R126): the lowest match only is released; no match is no error. -/
def Block.noteOff (ch : BitVec 8) (note : BitVec 16) (now : Tick) (b : Block P) : Block P :=
  match chan? P ch, note? note with
  | some c, some n =>
    match findPlaying c (noteFreq P n) b.voices.toList with
    | some i => b.updVoice i (Voice.noteOff now)
    | none => b
  | _, _ => b

/-- `NOTE_OFF` (R126). -/
def execNoteOff (ch : BitVec 8) (note : BitVec 16) (s : State) : Result :=
  .next (s.withBlock (s.block.noteOff ch note s.now))

/-- What `ALL_OFF` leaves (R128): every voice inactive at once, nothing else touched. -/
def Block.allOff (b : Block P) : Block P := b.mapVoices fun _ v => { v with active := false }

/-- `ALL_OFF` (R128). -/
def execAllOff (s : State) : Result := .next (s.withBlock s.block.allOff)

/-- What `SET_MVOL` leaves (R130). -/
def Block.setMvol (volume : BitVec 16) (b : Block P) : Block P := { b with mvol := level10 volume }

/-- `SET_MVOL` (R130). -/
def execSetMvol (volume : BitVec 16) (s : State) : Result := .next (s.withBlock (s.block.setMvol volume))

/-- What `SET_CHVOL` leaves (R131): a channel out of range is ignored. -/
def Block.setChvol (ch : BitVec 8) (volume : BitVec 16) (b : Block P) : Block P :=
  match chan? P ch with
  | some c => b.updChan c fun e => { e with vol := level10 volume }
  | none => b

/-- `SET_CHVOL` (R131). -/
def execSetChvol (ch : BitVec 8) (volume : BitVec 16) (s : State) : Result :=
  .next (s.withBlock (s.block.setChvol ch volume))

end Sys2Proof.Machine
end

