-- ==== Sys2Proof/Machine/DeltaSigma.lean ====
section
/-! DEFINITION. spec/44_delta_sigma.md: the encoder commands and the `PULSE` event. -/

namespace Sys2Proof.Machine

variable {P : Params}

/-! ### Commands -/

/-- What `DS_PUSH` leaves (R233). -/
def Block.dsPush (sample : BitVec 32) (b : Block P) : Block P := b.push (pushedSample sample)

/-- `DS_PUSH` (R233). -/
def execDsPush (sample : BitVec 32) (s : State) : Result := .next (s.withBlock (s.block.dsPush sample))

/-- `DS_START` (R236): from stopped only; while running nothing. -/
def Encoder.start (e : Encoder) : Encoder :=
  if e.run then e else { e with run := true, phase := 0, pwmEn := true }

/-- `DS_STOP` (R237). -/
def Encoder.stop (e : Encoder) : Encoder := { e with run := false, pwmEn := false, pwmDuty := 0, bit := false }

/-- What `DS_START` leaves (R236). -/
def Block.dsStart (b : Block P) : Block P := b.updEnc Encoder.start

/-- `DS_START` (R236). -/
def execDsStart (s : State) : Result := .next (s.withBlock s.block.dsStart)

/-- What `DS_STOP` leaves (R237). -/
def Block.dsStop (b : Block P) : Block P := b.updEnc Encoder.stop

/-- `DS_STOP` (R237). -/
def execDsStop (s : State) : Result := .next (s.withBlock s.block.dsStop)

/-- What `DS_SET_VOL` leaves (R238). -/
def Block.dsSetVol (volume : BitVec 16) (b : Block P) : Block P :=
  b.updEnc fun e => { e with vol := encoderVolume volume }

/-- `DS_SET_VOL` (R238). -/
def execDsSetVol (volume : BitVec 16) (s : State) : Result := .next (s.withBlock (s.block.dsSetVol volume))

/-! ### PULSE (R240) -/

/-- `interp`: linear interpolation from `BUF_PREV` toward `BUF_CUR` at `ph / OSR`. -/
def Encoder.interp (P : Params) (e : Encoder) : Int :=
  e.bufPrev.toInt + fdiv ((e.bufCur.toInt - e.bufPrev.toInt) * e.phase.toNat) P.osr

/-- `v`: the volume applied. -/
def Encoder.scaled (P : Params) (e : Encoder) : Int := fdiv (e.interp P * e.vol.toNat) one

/-- `u`: `[-1, 1]` mapped to `[0, 1]` in units of `2^-16` (R241). -/
def Encoder.mapped (P : Params) (e : Encoder) : Int := e.scaled P + one

/-- `sum`: the running error added. -/
def Encoder.sum (P : Params) (e : Encoder) : Int := e.mapped P + e.err.toInt

/-- `bit`: 1 if the sum exceeds one half, strictly. -/
def Encoder.nextBit (P : Params) (e : Encoder) : Bool := decide (one < e.sum P)

/-- The new error, `sum - bit * 2 * ONE`. -/
def Encoder.nextErr (P : Params) (e : Encoder) : Int := e.sum P - (if e.nextBit P then 2 * one else 0)

/-- What a `PULSE` leaves of a running encoder (R240). -/
def Encoder.pulseRunning (P : Params) (e : Encoder) : Encoder :=
  { e with
    err := toQ15 (e.nextErr P)
    phase := BitVec.ofNat 16 ((e.phase.toNat + 1) % P.osr)
    bit := e.nextBit P
    pwmDuty := if e.nextBit P then P.pwmPeriod else 0 }

/-- `PULSE` on the encoder registers (R240): nothing at all while stopped. -/
def Encoder.pulse (P : Params) (e : Encoder) : Encoder := if e.run then e.pulseRunning P else e

/-- What `PULSE` leaves (R240): the encoder registers only are written (R37). -/
def Block.pulse (b : Block P) : Block P := b.updEnc (Encoder.pulse P)

/-- `PULSE` (R240). -/
def execPulse (s : State) : Result := .next (s.withBlock s.block.pulse)

end Sys2Proof.Machine
end

