-- ==== Sys2Proof/Machine/Envelope.lean ====
section
/-! DEFINITION. spec/41_envelope.md: the amplitude function, the five envelope setters, and `UPDATE`. -/

namespace Sys2Proof.Machine

variable {P : Params}

/-! ### The amplitude function (R151) -/

/-- The stages of R151. No stage is stored: it is found anew from the elapsed time at every evaluation (R150). -/
inductive Stage where
  | attack
  | decay
  | sustain
  | release
  | finished
  deriving DecidableEq, Repr

/-- Base level, `fdiv(VEL * ONE, 127)` (R151). -/
def Voice.base (v : Voice P) : Int := fdiv (v.vel.toNat * one) 127

/-- Sustain level, `fdiv(base * SUS, 10)` (R151). -/
def Voice.susLevel (v : Voice P) : Int := fdiv (v.base * v.sus.toNat) 10

/-- Elapsed time since note-on (R151). -/
def Voice.el (v : Voice P) (now : Tick) : Nat := elapsed now v.start

/-- Elapsed time since release (R151). -/
def Voice.er (v : Voice P) (now : Tick) : Nat := elapsed now v.relTick

/-- The stage R151's conditions choose; the sum `ATK + DEC` does not wrap. -/
def Voice.stage (v : Voice P) (now : Tick) : Stage :=
  if v.released then
    if v.er now < v.rel.toNat then .release else .finished
  else if v.el now < v.atk.toNat then .attack
  else if v.el now < v.atk.toNat + v.dec.toNat then .decay
  else .sustain

/-- `env(i, now)` of an active voice (R151). -/
def env (v : Voice P) (now : Tick) : Int :=
  match v.stage now with
  | .attack => fdiv (v.base * v.el now) v.atk.toNat
  | .decay => v.base - fdiv ((v.base - v.susLevel) * (v.el now - v.atk.toNat)) v.dec.toNat
  | .sustain => v.susLevel
  | .release => fdiv (v.susLevel * (v.rel.toNat - v.er now)) v.rel.toNat
  | .finished => 0

/-! ### The envelope setters -/

/-- What `SET_ADSR` leaves (R155). -/
def Block.setAdsr (ch : BitVec 8) (attack decay : BitVec 16) (sustain : BitVec 4) (release : BitVec 16)
    (b : Block P) : Block P :=
  b.retuneOn ch fun v => { v with atk := attack, dec := decay, sus := level10 sustain, rel := release }

/-- `SET_ADSR` (R155). -/
def execSetAdsr (ch : BitVec 8) (attack decay : BitVec 16) (sustain : BitVec 4) (release : BitVec 16)
    (s : State) : Result :=
  .next (s.withBlock (s.block.setAdsr ch attack decay sustain release))

/-- What `SET_ATTACK` leaves (R156). -/
def Block.setAttack (ch : BitVec 8) (attack : BitVec 16) (b : Block P) : Block P :=
  b.retuneOn ch fun v => { v with atk := attack }

/-- `SET_ATTACK` (R156). -/
def execSetAttack (ch : BitVec 8) (attack : BitVec 16) (s : State) : Result :=
  .next (s.withBlock (s.block.setAttack ch attack))

/-- What `SET_DECAY` leaves (R157). -/
def Block.setDecay (ch : BitVec 8) (decay : BitVec 16) (b : Block P) : Block P :=
  b.retuneOn ch fun v => { v with dec := decay }

/-- `SET_DECAY` (R157). -/
def execSetDecay (ch : BitVec 8) (decay : BitVec 16) (s : State) : Result :=
  .next (s.withBlock (s.block.setDecay ch decay))

/-- What `SET_SUSTAIN` leaves (R158). -/
def Block.setSustain (ch : BitVec 8) (sustain : BitVec 16) (b : Block P) : Block P :=
  b.retuneOn ch fun v => { v with sus := level10 sustain }

/-- `SET_SUSTAIN` (R158). -/
def execSetSustain (ch : BitVec 8) (sustain : BitVec 16) (s : State) : Result :=
  .next (s.withBlock (s.block.setSustain ch sustain))

/-- What `SET_RELEASE` leaves (R159). -/
def Block.setRelease (ch : BitVec 8) (release : BitVec 16) (b : Block P) : Block P :=
  b.retuneOn ch fun v => { v with rel := release }

/-- `SET_RELEASE` (R159). -/
def execSetRelease (ch : BitVec 8) (release : BitVec 16) (s : State) : Result :=
  .next (s.withBlock (s.block.setRelease ch release))

/-! ### UPDATE -/

/-- `UPDATE`: `retire(NOW)` (R161). -/
def execUpdate (s : State) : Result := .next (s.withBlock (s.block.retire s.now))

end Sys2Proof.Machine
end

