-- ==== Sys2Proof/Machine/Oscillator.lean ====
section
/-! DEFINITION. spec/42_oscillator.md: the plain waveforms, the harmonics variant, a voice's sample, and `SET_WAVE`. -/

namespace Sys2Proof.Machine

/-! ### The plain waveforms -/

/-- `sine(p) = SINE_ROM[p[31:24]]` (R183). -/
def sine (P : Params) (p : BitVec 32) : Int := P.sineRom.getD (p.extractLsb' 24 8).toNat 0

/-- `square(p)` (R184): the sign of the exact sine. -/
def square (p : BitVec 32) : Int :=
  if p.toNat = 0 ∨ p.toNat = 2 ^ 31 then 0 else if p.toNat < 2 ^ 31 then one else -one

/-- `saw(p) = p[31:16] - ONE` (R185). -/
def saw (p : BitVec 32) : Int := (p.extractLsb' 16 16).toNat - one

/-- `tri(p)` (R186): with `t = p[31:15]`, `t - ONE` up to half a period and `3 * ONE - t` after it. -/
def tri (p : BitVec 32) : Int :=
  if (p.extractLsb' 15 17).toNat < 65536 then (p.extractLsb' 15 17).toNat - one
  else 3 * one - (p.extractLsb' 15 17).toNat

/-! ### The harmonics variant (R190) -/

/-- The partial `k` is summed: a triangle leaves out the even ones. -/
def partialSummed (w : WaveTag) (k : Nat) : Bool := !(w == .triangle && k % 2 == 0)

/-- Partial `k`: phase `(k * p) mod 2^32`, amplitude `1/k`, floored before it is summed. -/
def partialTerm (P : Params) (p : BitVec 32) (k : Nat) : Int := fdiv (sine P (BitVec.ofNat 32 (k * p.toNat))) k

/-- The sum of the partials `k = 1 .. H`. -/
def partialSum (P : Params) (w : WaveTag) (H : Nat) (p : BitVec 32) : Int :=
  (((List.range' 1 H).filter (partialSummed w)).map (partialTerm P p)).sum

/-- `harm(w, H, p)`: the sum divided by the count requested when more than one harmonic is requested. -/
def harm (P : Params) (w : WaveTag) (H : Nat) (p : BitVec 32) : Int :=
  if 1 < H then fdiv (partialSum P w H p) H else partialSum P w H p

/-! ### A voice's sample (R189) -/

/-- The sample of a voice with a pitched waveform: `plain` is what the plain generator gives; `HARM = 0` selects it. -/
def pitched {P : Params} (v : Voice P) (plain : Int) : Int :=
  if v.harm = 0 then plain else harm P v.wave v.harm.toNat v.phase

/-- `wave(i, noise)` (R189). -/
def wave {P : Params} (v : Voice P) (noise : Q15) : Int :=
  match v.wave with
  | .noise => noiseSample noise
  | .sine => pitched v (sine P v.phase)
  | .square => pitched v (square v.phase)
  | .saw => pitched v (saw v.phase)
  | .triangle => pitched v (tri v.phase)

/-! ### SET_WAVE -/

/-- What `SET_WAVE` leaves (R195): the channel registers only are written; ignored whole for a channel or a tag out of
range. -/
def Block.setWave {P : Params} (ch : BitVec 8) (tag count : BitVec 16) (b : Block P) : Block P :=
  match chan? P ch, waveTag? tag with
  | some c, some w => b.updChan c fun e => { e with wave := w, harm := harmonics P count }
  | _, _ => b

/-- `SET_WAVE` (R195). -/
def execSetWave (ch : BitVec 8) (tag count : BitVec 16) (s : State) : Result :=
  .next (s.withBlock (s.block.setWave ch tag count))

end Sys2Proof.Machine
end

