-- ==== Sys2Proof/Machine/Mixer.lean ====
section
/-! DEFINITION. spec/43_mixer.md: the mixing network and `SAMPLE_TICK`. -/

namespace Sys2Proof.Machine

variable {P : Params}

/-- `chvol(i, t)` (R213): the identity unless the parameter says that the mixer applies the channel volume. -/
def chvol (P : Params) (vol : BitVec 4) (t : Int) : Int :=
  if P.mixAppliesChvol then fdiv (t * vol.toNat) 10 else t

/-- What one voice adds to the mix (R212), `none` for a voice that is left out: an inactive one, one with `FREQ = 0`, one
whose envelope is 0. A noise value is used only here, by a voice that is not left out. -/
def voiceTerm (v : Voice P) (vol : BitVec 4) (now : Tick) (noise : Q15) : Option Int :=
  if v.active ∧ v.freq ≠ 0 ∧ env v now ≠ 0 then
    some (chvol P vol (fdiv (env v now * wave v noise) one))
  else none

/-- The terms of the contributing voices in index order (R212), each with the volume of its own channel (R213). `sum` is their
sum and `n` their count. -/
def Block.terms (now : Tick) (noise : Vector Q15 P.nv) (b : Block P) : List Int :=
  (Vector.ofFn fun i : Fin P.nv => voiceTerm b.voices[i] (b.chans[(b.voices[i]).ch]).vol now noise[i]).toList.filterMap id

/-- Average and clamp (R214): `m`. -/
def mixLevel (terms : List Int) : Int :=
  if terms.length = 0 then 0 else clampLevel (fdiv terms.sum terms.length)

/-- The value `SAMPLE_TICK` writes to `MIX_OUT`: master volume last (R214). -/
def mixScale (mvol : BitVec 4) (terms : List Int) : Int := fdiv (mixLevel terms * mvol.toNat) 10

/-- The value steps 3 and 4 of R210 find in the state that steps 1 and 2 left. -/
def Block.mix (now : Tick) (noise : Vector Q15 P.nv) (b : Block P) : Int := mixScale b.mvol (b.terms now noise)

/-- Steps 4 and 5 of R210: `MIX_OUT <- x`, then `push(MIX_OUT)`. -/
def Block.emit (x : Int) (b : Block P) : Block P := { b with mixOut := toQ15 x }.push (toQ15 x).toInt

/-- What `SAMPLE_TICK` leaves (R210): retire, advance, mix, write, push, each step on what the steps before it left. -/
def Block.sampleTick (now : Tick) (noise : Vector Q15 P.nv) (b : Block P) : Block P :=
  (b.retire now).advance.emit ((b.retire now).advance.mix now noise)

/-- `SAMPLE_TICK` (R210). -/
def execSampleTick (s : State) : Result := .next (s.withBlock (s.block.sampleTick s.now s.noise))

end Sys2Proof.Machine
end

