-- ==== Sys2Proof/Machine/BlockStep.lean ====
section
/-! DEFINITION. The step function of R48: the parameters with the two ROMs, and the event with the values on the input ports, are
its arguments, and the state it works on is the block's own, `Block P`, which holds none of them. The host fixes the type of
`exec` and `step` to one argument, the host's `State`; that is a block with the arguments of its coming steps beside it, and
`step` feeds them to this function (Machine/Step.lean). -/

namespace Sys2Proof.Machine

/-- One instruction: the parameters, the tick and the noise values (R33, R34) its arguments. -/
def blockExec (P : Params) (i : Instr) (now : Tick) (noise : Vector Q15 P.nv) (b : Block P) : Block P :=
  match i with
  | .nop => b
  | .noteOn ch note velocity => b.noteOn ch note velocity now
  | .noteOff ch note => b.noteOff ch note now
  | .allOff => b.allOff
  | .setMvol volume => b.setMvol volume
  | .setChvol ch volume => b.setChvol ch volume
  | .setAdsr ch attack decay sustain release => b.setAdsr ch attack decay sustain release
  | .setAttack ch attack => b.setAttack ch attack
  | .setDecay ch decay => b.setDecay ch decay
  | .setSustain ch sustain => b.setSustain ch sustain
  | .setRelease ch release => b.setRelease ch release
  | .setWave ch tag harmonics => b.setWave ch tag harmonics
  | .update => b.retire now
  | .sampleTick => b.sampleTick now noise
  | .dsPush sample => b.dsPush sample
  | .dsStart => b.dsStart
  | .dsStop => b.dsStop
  | .dsSetVol volume => b.dsSetVol volume
  | .reservedF3 => b
  | .reservedF4F7 _ => b
  | .reservedF8FF _ => b
  | .pulse => b.pulse

/-- The step function of R48, on one event (R14). Every event completes (R260), so it answers a block. -/
def blockStep (P : Params) (e : Event P) (b : Block P) : Block P :=
  match e with
  | .cmd word now noise => blockExec P (decode word) now noise b
  | .pulse => b.pulse
  | .reset => Block.reset P

/-- Events one after the other, in their total order (R75). -/
def blockRun (P : Params) (events : List (Event P)) (b : Block P) : Block P :=
  events.foldl (fun b e => blockStep P e b) b

end Sys2Proof.Machine
end

