-- ==== Sys2Proof/Machine/Dispatch.lean ====
section
/-! DEFINITION. One arm for each instruction. -/

namespace Sys2Proof.Machine

def exec (i : Instr) (s : State) : Host.Outcome State Fault Refusal :=
  match i with
  | .nop => Sys2Proof.Machine.execNop s
  | .noteOn ch note velocity => Sys2Proof.Machine.execNoteOn ch note velocity s
  | .noteOff ch note => Sys2Proof.Machine.execNoteOff ch note s
  | .allOff => Sys2Proof.Machine.execAllOff s
  | .setMvol volume => Sys2Proof.Machine.execSetMvol volume s
  | .setChvol ch volume => Sys2Proof.Machine.execSetChvol ch volume s
  | .setAdsr ch attack decay sustain release => Sys2Proof.Machine.execSetAdsr ch attack decay sustain release s
  | .setAttack ch attack => Sys2Proof.Machine.execSetAttack ch attack s
  | .setDecay ch decay => Sys2Proof.Machine.execSetDecay ch decay s
  | .setSustain ch sustain => Sys2Proof.Machine.execSetSustain ch sustain s
  | .setRelease ch release => Sys2Proof.Machine.execSetRelease ch release s
  | .setWave ch tag harmonics => Sys2Proof.Machine.execSetWave ch tag harmonics s
  | .update => Sys2Proof.Machine.execUpdate s
  | .sampleTick => Sys2Proof.Machine.execSampleTick s
  | .dsPush sample => Sys2Proof.Machine.execDsPush sample s
  | .dsStart => Sys2Proof.Machine.execDsStart s
  | .dsStop => Sys2Proof.Machine.execDsStop s
  | .dsSetVol volume => Sys2Proof.Machine.execDsSetVol volume s
  | .reservedF3 => Sys2Proof.Machine.execReservedF3 s
  | .reservedF4F7 low => Sys2Proof.Machine.execReservedF4F7 low s
  | .reservedF8FF low => Sys2Proof.Machine.execReservedF8FF low s
  | .pulse => Sys2Proof.Machine.execPulse s

end Sys2Proof.Machine
end

