-- ==== Sys2Proof/Machine/Events.lean ====
section
/-! DEFINITION. What one event does (R14), how the ports' values at one instant make events (R32, R50, R77, R271), and the
listing's pseudo-commands (R99, R100). -/

namespace Sys2Proof.Machine

variable {P : Params}

/-- `RESET`: every piece of the block's state at the value of R49. The parameters, the ports and what the outside will do next
are no state of the block (R48; log entry 11). -/
def State.resetEvent (s : State) : State := s.withBlock (Block.reset s.params)

/-- The two input ports a command samples (R33, R34). -/
def State.sample (s : State) (now : Tick) (noise : Vector Q15 s.params.nv) : State := { s with now := now, noise := noise }

/-- One event (R14): a command is decoded and executed whole; `PULSE` comes from its own port and is never decoded (R94). -/
def applyEvent (s : State) (e : Event s.params) : Result :=
  match e with
  | .cmd word now noise => exec (decode word) (s.sample now noise)
  | .pulse => exec .pulse s
  | .reset => .next s.resetEvent

/-- The event that a table word stands for (R94), with the ports as the state has them. -/
def listingEvent (word : Word) (s : State) : Event s.params :=
  if word = pulseListingWord then .pulse else .cmd word s.now s.noise

/-! ### The ports at one instant -/

/-- The ports at one instant (R32), less `clk` (R310) and the outputs that follow from the block's state. -/
structure Ports (P : Params) where
  rst : Bool
  cmdValid : Bool
  cmdWord : Word
  now : Tick
  noiseIn : Vector Q15 P.nv
  /-- An assertion of `pulse_stb` falls at this instant. R32 and R240 give one `PULSE` to each assertion and do not say what a
  strobe is that stays high. The MODEL's choice: every instant at which the port is 1 is an assertion of its own, so a strobe
  that stays high over several instants makes as many pulses (DESIGN CHOICE, log entry 16). -/
  pulseStb : Bool
  /-- No port: the implementation holds `cmd_ready` low at this instant for a reason of its own. R310 leaves that open, and
  nothing constrains it (log entry 6). -/
  stalled : Bool
  deriving DecidableEq, Repr

/-- `cmd_ready`: low while `rst` is asserted (R50; log entry 11), and whenever the implementation stalls (R310). -/
def Ports.cmdReady (p : Ports P) : Bool := !p.rst && !p.stalled

/-- A command is accepted when `cmd_valid` and `cmd_ready` are both 1 (R32). -/
def Ports.accepts (p : Ports P) : Bool := p.cmdValid && p.cmdReady

/-- The events of one instant in their order: reset wins over both others (R50, R271), and a pulse comes before a command
(R77). That each instant at which `pulse_stb` is 1 gives a `PULSE`, and each at which `rst` is 1 a `RESET`, is the model's
choice (log entries 16, 11). -/
def Ports.events (p : Ports P) : List (Event P) :=
  if p.rst then [.reset]
  else (if p.pulseStb then [.pulse] else []) ++ (if p.accepts then [.cmd p.cmdWord p.now p.noiseIn] else [])

/-- The step function of R48 over one instant, the values on the input ports its argument. -/
def blockInstant (P : Params) (p : Ports P) (b : Block P) : Block P := blockRun P p.events b

/-- The outside presents one instant's port values. -/
def State.present (s : State) (p : Ports s.params) : State := { s with pending := s.pending ++ p.events }

/-! ### Pseudo-commands of the listing syntax (R100) -/

/-- `PULSES n`. -/
def pulsesListing (n : Nat) : List (Event P) := List.replicate n .pulse

/-- `TICKS n` at one `NOW`; each tick has noise values of its own (R34). -/
def ticksListing (now : Tick) (noises : List (Vector Q15 P.nv)) : List (Event P) :=
  noises.map fun noise => .cmd (encode .sampleTick) now noise

/-- `DS_PUSH2 s`: the same push twice, so that both slots hold it. -/
def dsPush2Listing (sample : BitVec 32) (now : Tick) (noise : Vector Q15 P.nv) : List (Event P) :=
  List.replicate 2 (.cmd (encode (.dsPush sample)) now noise)

/-- `SILENCE`: one push of 0. -/
def silenceListing (now : Tick) (noise : Vector Q15 P.nv) : List (Event P) :=
  [.cmd (encode (.dsPush 0)) now noise]

end Sys2Proof.Machine
end

