-- ==== Sys2Proof/Machine/Step.lean ====
section
/-! DEFINITION. One step of the host's: the next event, whole (R14, R75). It feeds the arguments that stand beside the block in
the host's state to the step function of R48 (`blockStep`; obligation EveryEventCompletes). -/

namespace Sys2Proof.Machine

/-- One step applies the first event that the outside has pending, and takes it off the list; between events the state does
not change (R14), so with none pending the step leaves it (log entry 13). -/
def step (s : State) : Host.Outcome State Fault Refusal :=
  match s.pending with
  | [] => .next s
  | e :: rest => applyEvent { s with pending := rest } e

/-- The state with the instruction of a table row presented as the very next event: the block fetches nothing (R31), so what
takes the place of a fetched word is the word at the command port, or the strobe at `pulse_stb` for the row of `PULSE` (log
entry 9). -/
def State.withFetchWord (s : State) (nbits w : Nat) : State :=
  { s with pending := listingEvent (tableWord nbits w) s :: s.pending }

end Sys2Proof.Machine
end

