-- ==== Sys2Proof/Machine/Outputs.lean ====
section
/-! DEFINITION. The output ports (R32): continuous functions of the block's state and of port `now`, whose reading changes
nothing (R44 to R46, R78, R279). -/

namespace Sys2Proof.Machine

variable {P : Params}

/-- `active_count`: the number of voices with `ACTIVE = 1` (R44). -/
def Block.activeCount (b : Block P) : Nat := b.voices.toList.countP fun v => v.active

/-- `ch_active[c]` (R45); a query for `c >= NCH` reads as 0. -/
def Block.chActive (b : Block P) (c : Nat) : Bool := b.voices.toList.any fun v => v.active && v.ch.val == c

/-- `env_out[i]` at the present value of port `now` (R46). -/
def Block.envOut (b : Block P) (now : Tick) (i : Fin P.nv) : Int :=
  if (b.voices[i]).active then env b.voices[i] now else 0

/-- All output ports of R32 but `cmd_ready`, which stands with the input ports (`Ports.cmdReady`). -/
structure Outputs (P : Params) where
  activeCount : BitVec 4
  chActive : Vector Bool P.nch
  envOut : Vector Q15 P.nv
  mixOut : Q15
  dsBit : Bool
  pwmEn : Bool
  pwmDuty : BitVec 16
  deriving DecidableEq, Repr

/-- The output ports while port `now` has the value `now`. -/
def Block.outputs (b : Block P) (now : Tick) : Outputs P where
  activeCount := BitVec.ofNat 4 b.activeCount
  chActive := Vector.ofFn fun c => b.chActive c
  envOut := Vector.ofFn fun i => toQ15 (b.envOut now i)
  mixOut := b.mixOut
  dsBit := b.enc.bit
  pwmEn := b.enc.pwmEn
  pwmDuty := b.enc.pwmDuty

end Sys2Proof.Machine
end

