-- ==== Sys2Proof/Safety.lean ====
section
/-! DEFINITION. What a legal state is, and the words claims about the whole machine are stated in. -/

namespace Sys2Proof.Machine

variable {P : Params}

/-- A voice's fields within the ranges of R35; a frequency of the note table and the phase increment that goes with it (R123,
R125) while it is active. The ranges that are the whole width of a register are in its type. -/
structure Voice.Inv (v : Voice P) : Prop where
  /-- `FREQ` is within every bound of the note table. (R35 writes 12544, the bound of the table of R122.) -/
  freq_le : ∀ top, (∀ f ∈ P.noteRom, f ≤ top) → v.freq.toNat ≤ top
  freq_mem : v.active = true → v.freq.toNat ∈ P.noteRom
  sus_le : v.sus.toNat ≤ 10
  harm_le : v.harm.toNat ≤ P.hmax
  inc_eq : v.active = true → v.inc = phaseInc P v.freq

/-- A channel's fields within the ranges of R39. -/
structure Channel.Inv (P : Params) (c : Channel) : Prop where
  vol_le : c.vol.toNat ≤ 10
  harm_le : c.harm.toNat ≤ P.hmax

/-- The encoder registers within the ranges of R41, and what they say of each other: the PWM enable is the running flag, the
duty carries the same information as the bit (R246), a stopped encoder drives neither (R231). -/
structure Encoder.Inv (P : Params) (e : Encoder) : Prop where
  bufCur_range : -one ≤ e.bufCur.toInt ∧ e.bufCur.toInt ≤ one
  bufPrev_range : -one ≤ e.bufPrev.toInt ∧ e.bufPrev.toInt ≤ one
  err_range : -32767 ≤ e.err.toInt ∧ e.err.toInt ≤ 32768
  phase_lt : e.phase.toNat < P.osr
  vol_le : (e.vol.toNat : Int) ≤ one
  pwmEn_eq : e.pwmEn = e.run
  duty_eq : e.pwmDuty = if e.bit then P.pwmPeriod else 0
  stopped_bit : e.run = false → e.bit = false

/-- A legal block: every register in the range the spec states for it. -/
structure Block.Inv (b : Block P) : Prop where
  voices : ∀ i : Fin P.nv, (b.voices[i]).Inv
  chans : ∀ c : Fin P.nch, (b.chans[c]).Inv P
  mvol_le : b.mvol.toNat ≤ 10
  mixOut_range : -one ≤ b.mixOut.toInt ∧ b.mixOut.toInt ≤ one
  enc : b.enc.Inv P

/-- A legal state: its block is. -/
def State.Inv (s : State) : Prop := s.block.Inv

/-- The values R49 gives for the state after `RESET`. It gives none for the other fields of a voice. -/
structure Block.AsAfterReset (b : Block P) : Prop where
  active : ∀ i : Fin P.nv, (b.voices[i]).active = false
  released : ∀ i : Fin P.nv, (b.voices[i]).released = false
  chans : ∀ c : Fin P.nch, (b.chans[c]).vol.toNat = 10 ∧ (b.chans[c]).wave = .sine ∧ (b.chans[c]).harm.toNat = 0
  mvol : b.mvol.toNat = 10
  mixOut : b.mixOut.toInt = 0
  buffer : b.enc.bufCur.toInt = 0 ∧ b.enc.bufPrev.toInt = 0
  err : b.enc.err.toInt = 0
  phase : b.enc.phase.toNat = 0
  vol : b.enc.vol.toNat = 32768
  run : b.enc.run = false
  outputs : b.enc.bit = false ∧ b.enc.pwmEn = false ∧ b.enc.pwmDuty.toNat = 0

/-- Everything but the voice pool is the same. -/
structure Block.SameButVoices (a b : Block P) : Prop where
  chans : b.chans = a.chans
  mvol : b.mvol = a.mvol
  mixOut : b.mixOut = a.mixOut
  enc : b.enc = a.enc

/-- Two voices that no rule tells apart (R38): both inactive, or both active with equal fields, `REL_TICK` apart while it
means nothing. -/
def Voice.Alike (v w : Voice P) : Prop :=
  v.active = w.active ∧
    (v.active = true → { v with relTick := w.relTick } = w ∧ (v.released = true → v.relTick = w.relTick))

/-- Two blocks that differ only in fields that no rule reads (R38). -/
structure Block.Alike (a b : Block P) : Prop extends Block.SameButVoices a b where
  voices : ∀ i : Fin P.nv, (a.voices[i]).Alike b.voices[i]

/-! ### Streams of pulses -/

/-- The encoder after `n` pulses with nothing in between (R244, R245). -/
def Encoder.pulses (P : Params) : Nat → Encoder → Encoder
  | 0, e => e
  | n + 1, e => Encoder.pulses P n (e.pulse P)

/-- The number of 1 bits that `n` pulses with nothing in between emit (R244). -/
def Encoder.ones (P : Params) : Nat → Encoder → Nat
  | 0, _ => 0
  | n + 1, e => ((e.pulse P).bit).toNat + Encoder.ones P n (e.pulse P)

/-- The next event is a `PULSE`, and it finds the encoder running. -/
def State.emitsBit (s : State) : Bool := s.pending.head? == some .pulse && s.block.enc.run

/-- The number of 1 bits that the `PULSE` events among the next `n` events emit while the encoder runs, whatever commands fall
between them (R243). -/
def State.onesEmitted : Nat → State → Nat
  | 0, _ => 0
  | n + 1, s =>
    match step s with
    | .next t => (if s.emitsBit then t.block.enc.bit.toNat else 0) + State.onesEmitted n t
    | .fault _ => 0
    | .refused _ => 0

/-- The sum of the values of `u` that those `PULSE` events see (R243). -/
def State.inputSum : Nat → State → Int
  | 0, _ => 0
  | n + 1, s =>
    match step s with
    | .next t => (if s.emitsBit then s.block.enc.mapped s.params else 0) + State.inputSum n t
    | .fault _ => 0
    | .refused _ => 0

end Sys2Proof.Machine
end

