-- ==== Sys2Proof/Certificates/Slice0/Obligations.lean ====
section
/-! DEFINITION. The statements for the provers. Each docstring says which rule of spec/ it states, or from which it is
derived. Every statement is for every block, whatever its parameters within the bounds of R6: `s.params` or `P`. None rests on a
default of R6 (R7). `exec` changes nothing of a state but its block: `exec i s = .next (s.withBlock b)`. -/

open Sys2Proof Sys2Proof.Machine

/-! ### Encoding -/

/-- R90, R93: no bit of a command's encoding is dropped. `PULSE` has no command word (R94). -/
def Obligations.DecodeEncodeRoundTrip : Prop :=
  ∀ i : Instr, i.wf = true → decode (encode i) = i

/-- R95: the 21 command-port rows of the table cover all 2^64 words without overlap, and the one row that covers a word is the
row of the instruction the decoder reads. -/
def Obligations.CommandRowsCoverEachWordOnce : Prop :=
  ∀ w : Word, (commandRows.filter fun r => r.covers w).map (fun r => r.mnemonic) = [(decode w).mnemonic]

/-- R90: where the fields of a command word lie; R92: a field a command does not use is ignored. -/
def Obligations.CommandWordFieldsAndUnusedFields : Prop :=
  ∀ (aux : BitVec 4) (ch : BitVec 8) (a b c : BitVec 16),
    (∀ op : BitVec 4, (cw op aux ch a b c).toNat =
      op.toNat * 2 ^ 60 + aux.toNat * 2 ^ 56 + ch.toNat * 2 ^ 48 + a.toNat * 2 ^ 32 + b.toNat * 2 ^ 16 + c.toNat) ∧
    decode (cw 0x0 aux ch a b c) = .nop ∧
    decode (cw 0x1 aux ch a b c) = .noteOn ch a b ∧
    decode (cw 0x2 aux ch a b c) = .noteOff ch a ∧
    decode (cw 0x3 aux ch a b c) = .allOff ∧
    decode (cw 0x4 aux ch a b c) = .setMvol a ∧
    decode (cw 0x5 aux ch a b c) = .setChvol ch a ∧
    decode (cw 0x6 aux ch a b c) = .setAdsr ch a b aux c ∧
    decode (cw 0x7 aux ch a b c) = .setAttack ch a ∧
    decode (cw 0x8 aux ch a b c) = .setDecay ch a ∧
    decode (cw 0x9 aux ch a b c) = .setSustain ch a ∧
    decode (cw 0xA aux ch a b c) = .setRelease ch a ∧
    decode (cw 0xB aux ch a b c) = .setWave ch a b ∧
    decode (cw 0xC aux ch a b c) = .update ∧
    decode (cw 0xD aux ch a b c) = .sampleTick ∧
    decode (cw 0xE aux ch a b c) = .dsPush (b ++ c) ∧
    decode (cw 0xF 0x0 ch a b c) = .dsStart ∧
    decode (cw 0xF 0x1 ch a b c) = .dsStop ∧
    decode (cw 0xF 0x2 ch a b c) = .dsSetVol a

/-- Words written out by the spec (R123, R126, R155, R195, R233, R238 and table X1) decode to the command they stand for. -/
def Obligations.WrittenOutWordsDecode : Prop :=
  decode 0x1000004500400000#64 = .noteOn 0 69 64 ∧
  decode 0x2003003C00000000#64 = .noteOff 3 60 ∧
  decode 0x6500000A0014012C#64 = .setAdsr 0 10 20 5 300 ∧
  decode 0xB002000200030000#64 = .setWave 2 2 3 ∧
  decode 0xD000000000000000#64 = .sampleTick ∧
  decode 0xE0000000FFFF8000#64 = .dsPush (BitVec.ofInt 32 (-32768)) ∧
  decode 0xF200400000000000#64 = .dsSetVol 16384 ∧
  decode 0xFF00000000000000#64 = .reservedF8FF 7

/-- R94: no command word decodes to `PULSE`; the word that listings write for it is reserved on the command port. -/
def Obligations.CommandPortNeverDecodesPulse : Prop :=
  (∀ w : Word, decode w ≠ .pulse) ∧ decode pulseListingWord = .reservedF8FF 7

/-- R95, R120: the reserved words do nothing, exactly like `NOP`, and every other word is a command of R93. -/
def Obligations.NopAndReservedWordsDoNothing : Prop :=
  ∀ s : State,
    exec .nop s = .next s ∧ exec .reservedF3 s = .next s ∧ (∀ low, exec (.reservedF4F7 low) s = .next s) ∧
    (∀ low, exec (.reservedF8FF low) s = .next s) ∧
    (∀ w : Word, w.op.toNat = 0 → exec (decode w) s = .next s) ∧
    (∀ w : Word, w.op.toNat = 0xF → 3 ≤ w.aux.toNat → exec (decode w) s = .next s) ∧
    (∀ w : Word, ¬ (w.op.toNat = 0xF ∧ 3 ≤ w.aux.toNat) →
      (decode w).mnemonic ≠ "RESERVED_F3" ∧ (decode w).mnemonic ≠ "RESERVED_F4_F7" ∧
      (decode w).mnemonic ≠ "RESERVED_F8_FF" ∧ (decode w).mnemonic ≠ "PULSE")

/-! ### Events and steps -/

/-- R14, R31, R33, R34: the next event being an accepted word that decodes to `i`, the step is `i` executed whole, on the values
the ports have at that moment. -/
def Obligations.StepExecutesDecodedCommand : Prop :=
  ∀ (s : State) (w : Word) (now : Tick) (noise : Vector Q15 s.params.nv) (rest : List (Event s.params)) (i : Instr),
    s.pending = .cmd w now noise :: rest → decode w = i →
    step s = exec i { s with now := now, noise := noise, pending := rest }

/-- R14, R94, R240: a pulse strobe is one event that runs `PULSE`. The second clause is the MODEL's choice (DEDUCED, log entry 13): the
spec has no step without an event, and R14 says only that the state does not change between events; the model's step, which
the host runs whether or not an event is there, then answers the state itself. -/
def Obligations.StepAppliesPulseOrWaits : Prop :=
  (∀ (s : State) (rest : List (Event s.params)), s.pending = .pulse :: rest →
    step s = exec .pulse { s with pending := rest }) ∧
  (∀ s : State, s.pending = [] → step s = .next s)

/-- R77: a command that is accepted (`cmd_valid` and `cmd_ready` both 1, R32) and a pulse strobe at the same instant have the result
of the pulse first and the command second. Nothing is said of an instant at which `cmd_ready` is low (log entry 6). -/
def Obligations.PulseComesBeforeCommand : Prop :=
  ∀ (s : State) (p : Ports s.params), s.pending = [] → p.pulseStb = true → p.cmdValid = true → p.cmdReady = true →
    ∃ b : Block s.params, exec .pulse s = .next (s.withBlock b) ∧
      Sys2Proof.core.run 2 (s.present p) =
        exec (decode p.cmdWord) { s.withBlock b with now := p.now, noise := p.noiseIn }

/-- R50: while `rst` is asserted the one event is `RESET`, which puts every piece of state at the value of R49, whatever it was;
no command is accepted and no pulse performed. The fields R49 leaves unspecified are not mentioned. Of this the MODEL's own
are: that `cmd_ready` is low under `rst` even with no command presented, that an instant with `rst` at 1 is one `RESET` event,
and that `RESET` leaves the port values and the events still to come (`now`, `noise`, `pending`) as they are (log entries 6,
11). -/
def Obligations.ResetEventResetsEverything : Prop :=
  (∀ (s : State) (rest : List (Event s.params)), s.pending = .reset :: rest →
    ∃ b : Block s.params, step s = .next { s with block := b, pending := rest } ∧ b.AsAfterReset) ∧
  (∀ (P : Params) (p : Ports P), p.rst = true → p.events = [.reset] ∧ p.cmdReady = false)

/-- R49: the values the spec gives for the state after `RESET`, in the state the host runs from and for every block. -/
def Obligations.ResetValues : Prop := State.reset.block.AsAfterReset ∧ ∀ P : Params, (State.resetWith P).block.AsAfterReset

/-- R260: no command, event or operand value makes the block stop or fault; every step and every instruction answers a next
state. R48: what they leave of the block is what the step function on arguments (`blockStep`, `blockExec`) leaves of it, the
parameters with the ROMs and the events with the values on the input ports being its arguments, and the block, which holds none
of them, its state. So nothing else that stands in the host's `State` reaches the block: not `now` or `noise` as the steps find
them, and no event before its turn. No event changes a parameter, and no instruction anything but the block. That the host's
`State` carries the arguments at all is log entries 1 and 5. -/
def Obligations.EveryEventCompletes : Prop :=
  (∀ s : State, ∃ t, step s = .next t ∧ t.params = s.params) ∧
  (∀ (i : Instr) (s : State), exec i s = .next (s.withBlock (blockExec s.params i s.now s.noise s.block))) ∧
  (∀ (s : State) (n : Nat), ∃ (now : Tick) (noise : Vector Q15 s.params.nv),
    Sys2Proof.core.run n s = .next { s with
      block := blockRun s.params (s.pending.take n) s.block, now := now, noise := noise, pending := s.pending.drop n })

/-! ### Invariants and rules of the whole machine -/

/-- The state after reset is legal, for every block. The clauses on voice fields that R49 leaves unspecified (`FREQ`, `SUS`, `HARM` of
an inactive voice) rest on the MODEL's choice of log entry 3. -/
def Obligations.ResetStateIsLegal : Prop := State.reset.Inv ∧ ∀ P : Params, (State.resetWith P).Inv

/-- R35, R39, R40, R41: every register stays in the range the spec states for it, whatever event comes next; R123, R125: an active
voice has a frequency of the note table and its increment. `FREQ` is bounded by the block's own note table (R7), by 12544 for
that of R122. For a `RESET` event the clauses on `FREQ`, `SUS` and `HARM` of the inactive voices rest on the MODEL's choice of
log entry 3: R49 leaves these fields unspecified. -/
def Obligations.StepKeepsLegalState : Prop :=
  ∀ s : State, s.Inv → ∃ t, step s = .next t ∧ t.Inv

/-- R38: no rule reads a field of an inactive voice other than `ACTIVE`, nor `REL_TICK` of a voice that is not released. Two blocks
that differ only there, under the same event, stay so, and no output port ever tells them apart. So nothing rests on the values
that log entry 3 chose for the fields R49 leaves unspecified. -/
def Obligations.UnreadVoiceFieldsAreUnobservable : Prop :=
  ∀ (s : State) (b : Block s.params), s.block.Alike b →
    ∃ (t : State) (c : Block t.params), step s = .next t ∧ step (s.withBlock b) = .next (t.withBlock c) ∧
      t.block.Alike c ∧ ∀ now, t.block.outputs now = c.outputs now

/-- R36: the only transitions of a voice; whatever makes it inactive leaves `RELEASED` as it was. -/
def Obligations.VoiceTransitionsAreTheListedOnes : Prop :=
  ∀ (i : Instr) (s : State), ∃ b : Block s.params, exec i s = .next (s.withBlock b) ∧ ∀ j : Fin s.params.nv,
    ((b.voices[j]).sounding = true → (s.block.voices[j]).sounding = true ∨ i.mnemonic = "NOTE_ON") ∧
    ((b.voices[j]).releasing = true → (s.block.voices[j]).releasing = true ∨
      ((s.block.voices[j]).sounding = true ∧ i.mnemonic = "NOTE_OFF")) ∧
    ((b.voices[j]).active = false → (s.block.voices[j]).active = false ∨ i = .allOff ∨
      ((i = .update ∨ i = .sampleTick) ∧ (s.block.voices[j]).finished s.now = true)) ∧
    ((b.voices[j]).active = false → (b.voices[j]).released = (s.block.voices[j]).released)

/-- R40, R41, columns `Written by`: a global or encoder register changes only by the instructions named there, the phase counter by
`DS_START` only while stopped (R42). The channel table changes only by `SET_CHVOL` and `SET_WAVE`, the commands whose rules
write it (R131, R195) among those that reach it at all (R71). The voice pool changes by no `PULSE` (R37) and by no command
whose rule writes no voice: those of R120, R95, R130, R131, R195, R233 and R236 to R238. -/
def Obligations.RegistersHaveOnlyTheirWriters : Prop :=
  ∀ (i : Instr) (s : State), ∃ b : Block s.params, exec i s = .next (s.withBlock b) ∧
    (i.mnemonic ∈ ["NOP", "SET_MVOL", "SET_CHVOL", "SET_WAVE", "DS_PUSH", "DS_START", "DS_STOP", "DS_SET_VOL",
      "RESERVED_F3", "RESERVED_F4_F7", "RESERVED_F8_FF", "PULSE"] → b.voices = s.block.voices) ∧
    (i.mnemonic ∉ ["SET_CHVOL", "SET_WAVE"] → b.chans = s.block.chans) ∧
    (i.mnemonic ≠ "SET_MVOL" → b.mvol = s.block.mvol) ∧
    (i.mnemonic ≠ "SAMPLE_TICK" → b.mixOut = s.block.mixOut) ∧
    (i.mnemonic ∉ ["DS_PUSH", "SAMPLE_TICK"] →
      b.enc.bufCur = s.block.enc.bufCur ∧ b.enc.bufPrev = s.block.enc.bufPrev) ∧
    (i.mnemonic ≠ "PULSE" → b.enc.err = s.block.enc.err) ∧
    (i.mnemonic ≠ "PULSE" → (i.mnemonic = "DS_START" → s.block.enc.run = true) → b.enc.phase = s.block.enc.phase) ∧
    (i.mnemonic ≠ "DS_SET_VOL" → b.enc.vol = s.block.enc.vol) ∧
    (i.mnemonic ∉ ["DS_START", "DS_STOP"] → b.enc.run = s.block.enc.run ∧ b.enc.pwmEn = s.block.enc.pwmEn) ∧
    (i.mnemonic ∉ ["PULSE", "DS_STOP"] → b.enc.bit = s.block.enc.bit ∧ b.enc.pwmDuty = s.block.enc.pwmDuty)

/-- R33: only `NOTE_ON`, `NOTE_OFF`, `UPDATE` and `SAMPLE_TICK` read `NOW`. -/
def Obligations.OnlyFourCommandsReadNow : Prop :=
  ∀ (i : Instr) (s : State) (now : Tick), i.mnemonic ∉ ["NOTE_ON", "NOTE_OFF", "UPDATE", "SAMPLE_TICK"] →
    ∃ b : Block s.params, exec i s = .next (s.withBlock b) ∧
      exec i { s with now := now } = .next { s.withBlock b with now := now }

/-- R34, R188, R212: a value of port `noise_in` is read only by `SAMPLE_TICK` and only for an active voice with the noise
waveform; the others may be anything. -/
def Obligations.NoiseIsReadOnlyForNoiseVoices : Prop :=
  ∀ (i : Instr) (s : State) (noise : Vector Q15 s.params.nv),
    (∀ j : Fin s.params.nv, i = .sampleTick → (s.block.voices[j]).active = true → (s.block.voices[j]).wave = .noise →
      noise[j] = s.noise[j]) →
    ∃ b : Block s.params, exec i s = .next (s.withBlock b) ∧
      exec i { s with noise := noise } = .next { s.withBlock b with noise := noise }

/-- R262, R271: a command with a selecting operand out of range does nothing; a scaling operand out of range acts as the
clamped one, on its own. -/
def Obligations.SelectorsIgnoredScalersClamped : Prop :=
  ∀ (i : Instr) (s : State),
    (i.selectorsInRange s.params = false → exec i s = .next s) ∧
    exec (i.clampScalers s.params) s = exec i s ∧ (i.clampScalers s.params).scalersInRange s.params = true

/-- R78: the commands that are idempotent by their rules, `UPDATE` at an unchanged `NOW`. -/
def Obligations.IdempotentCommands : Prop :=
  ∀ (i : Instr) (s : State),
    i.mnemonic ∈ ["ALL_OFF", "DS_STOP", "SET_MVOL", "SET_CHVOL", "SET_WAVE", "DS_SET_VOL", "SET_ADSR", "SET_ATTACK",
      "SET_DECAY", "SET_SUSTAIN", "SET_RELEASE", "UPDATE"] →
    ∃ b : Block s.params, exec i s = .next (s.withBlock b) ∧ exec i (s.withBlock b) = .next (s.withBlock b)

/-! ### Voice control -/

/-- R123: the new note's voice, field by field, the other voices and everything else untouched; ignored for a channel or a note
out of range. -/
def Obligations.NoteOnStartsOneVoice : Prop :=
  ∀ (s : State) (ch : BitVec 8) (note vel : BitVec 16),
    (∀ (hch : ch.toNat < s.params.nch), note.toNat ≤ 127 →
      ∃ (b : Block s.params) (i : Fin s.params.nv), exec (.noteOn ch note vel) s = .next (s.withBlock b) ∧
        i.val = pickVoice s.block.voices.toList ∧
        (b.voices[i]).active = true ∧ (b.voices[i]).released = false ∧ (b.voices[i]).ch.val = ch.toNat ∧
        (b.voices[i]).freq.toNat = s.params.noteRom.getD note.toNat 0 ∧ (b.voices[i]).vel.toNat = min vel.toNat 127 ∧
        (b.voices[i]).start = s.now ∧ (b.voices[i]).atk = s.params.defAtk ∧ (b.voices[i]).dec = s.params.defDec ∧
        (b.voices[i]).sus = s.params.defSus ∧ (b.voices[i]).rel = s.params.defRel ∧
        (b.voices[i]).wave = (s.block.chans[ch.toNat]).wave ∧ (b.voices[i]).harm = (s.block.chans[ch.toNat]).harm ∧
        (b.voices[i]).phase = 0 ∧
        (b.voices[i]).inc.toNat = s.params.noteRom.getD note.toNat 0 * 2 ^ 32 / s.params.fsHz % 2 ^ 32 ∧
        (b.voices[i]).relTick = (s.block.voices[i]).relTick ∧
        (∀ j : Fin s.params.nv, j ≠ i → b.voices[j] = s.block.voices[j]) ∧ s.block.SameButVoices b) ∧
    (¬ (ch.toNat < s.params.nch ∧ note.toNat ≤ 127) → exec (.noteOn ch note vel) s = .next s)

/-- R124: the lowest free voice; with no free voice, the lowest of those whose `START` is smallest as a plain unsigned number. -/
def Obligations.PickVoiceTakesFreeElseOldest : Prop :=
  ∀ (P : Params) (pool : List (Voice P)), pool ≠ [] →
    ∃ h : pickVoice pool < pool.length,
      ((∃ v ∈ pool, v.active = false) → (pool[pickVoice pool]).active = false ∧
        ∀ (j : Nat) (hj : j < pickVoice pool), (pool[j]).active = true) ∧
      ((∀ v ∈ pool, v.active = true) →
        (∀ v ∈ pool, (pool[pickVoice pool]).start.toNat ≤ v.start.toNat) ∧
        ∀ (j : Nat) (hj : j < pickVoice pool), (pool[pickVoice pool]).start.toNat < (pool[j]).start.toNat)

/-- R129, R44, R263: the pool never holds more than `NV` active voices, and a `NOTE_ON` in range always adds its note, taking
the place of another only when the pool is full. -/
def Obligations.PoolNeverExceedsItsSize : Prop :=
  ∀ s : State, s.block.activeCount ≤ s.params.nv ∧
    ∀ (ch : BitVec 8) (note vel : BitVec 16), ch.toNat < s.params.nch → note.toNat ≤ 127 →
      ∃ b : Block s.params, exec (.noteOn ch note vel) s = .next (s.withBlock b) ∧
        b.activeCount = min (s.block.activeCount + 1) s.params.nv

/-- R126: the lowest sounding voice on the channel with the note's frequency is released at `NOW`; no match, or an operand out
of range, and nothing happens. -/
def Obligations.NoteOffReleasesLowestMatch : Prop :=
  ∀ (s : State) (ch : BitVec 8) (note : BitVec 16),
    let plays := fun i : Fin s.params.nv => (s.block.voices[i]).active = true ∧ (s.block.voices[i]).released = false ∧
      (s.block.voices[i]).ch.val = ch.toNat ∧
      (s.block.voices[i]).freq.toNat = s.params.noteRom.getD note.toNat 0
    (ch.toNat < s.params.nch → note.toNat ≤ 127 → ∀ i : Fin s.params.nv, plays i → (∀ j < i, ¬ plays j) →
      ∃ b : Block s.params, exec (.noteOff ch note) s = .next (s.withBlock b) ∧
        b.voices[i] = { s.block.voices[i] with released := true, relTick := s.now } ∧
        (∀ j : Fin s.params.nv, j ≠ i → b.voices[j] = s.block.voices[j]) ∧ s.block.SameButVoices b) ∧
    ((∀ i, ¬ plays i) → exec (.noteOff ch note) s = .next s) ∧
    (¬ (ch.toNat < s.params.nch ∧ note.toNat ≤ 127) → exec (.noteOff ch note) s = .next s)

/-- R127: two notes with the same rounded frequency are indistinguishable to `NOTE_OFF`. -/
def Obligations.AliasedNotesReleaseAlike : Prop :=
  ∀ (s : State) (ch : BitVec 8) (a b : BitVec 16), a.toNat ≤ 127 → b.toNat ≤ 127 →
    s.params.noteRom.getD a.toNat 0 = s.params.noteRom.getD b.toNat 0 →
    exec (.noteOff ch a) s = exec (.noteOff ch b) s

/-- R128, R307: `ALL_OFF` clears `ACTIVE` of every voice and touches nothing else. -/
def Obligations.AllOffSilencesThePool : Prop :=
  ∀ s : State, ∃ b : Block s.params, exec .allOff s = .next (s.withBlock b) ∧ b.activeCount = 0 ∧
    (∀ i : Fin s.params.nv, b.voices[i] = { s.block.voices[i] with active := false }) ∧ s.block.SameButVoices b

/-- R130, R131: the two volume registers are clamped to 10; a channel out of range is ignored. -/
def Obligations.VolumeSettersClampToTen : Prop :=
  ∀ (s : State) (ch : BitVec 8) (volume : BitVec 16),
    (∃ b : Block s.params, exec (.setMvol volume) s = .next (s.withBlock b) ∧ b.mvol.toNat = min volume.toNat 10 ∧
      b = { s.block with mvol := b.mvol }) ∧
    (∀ h : ch.toNat < s.params.nch, ∃ b : Block s.params, exec (.setChvol ch volume) s = .next (s.withBlock b) ∧
      (b.chans[ch.toNat]).vol.toNat = min volume.toNat 10 ∧
      b.chans[ch.toNat] = { s.block.chans[ch.toNat] with vol := (b.chans[ch.toNat]).vol } ∧
      (∀ d : Fin s.params.nch, d.val ≠ ch.toNat → b.chans[d] = s.block.chans[d]) ∧
      b = { s.block with chans := b.chans }) ∧
    (¬ ch.toNat < s.params.nch → exec (.setChvol ch volume) s = .next s)

/-- R131, R213: where the mixer does not apply the channel volume (the default), the terms are those of R212 alone and no mix
depends on the channel table; where it does, the term of each contributing voice is scaled by the volume of the voice's own
channel, `CH[V[i].CH].VOL`, over 10. -/
def Obligations.ChannelVolumeActsOnlyByParameter : Prop :=
  ∀ (P : Params) (b : Block P) (now : Tick) (noise : Vector Q15 P.nv),
    let contributors := (List.finRange P.nv).filter fun i =>
      (b.voices[i]).active && (b.voices[i]).freq != 0 && env b.voices[i] now != 0
    let level := fun i : Fin P.nv => env b.voices[i] now * wave b.voices[i] noise[i] / 32768
    (P.mixAppliesChvol = false → b.terms now noise = contributors.map level ∧
      ∀ chans : Vector Channel P.nch, ({ b with chans := chans } : Block P).mix now noise = b.mix now noise) ∧
    (P.mixAppliesChvol = true →
      b.terms now noise = contributors.map fun i => level i * (b.chans[(b.voices[i]).ch]).vol.toNat / 10)

/-! ### Envelope -/

/-- R151: the amplitude in each stage, in plain arithmetic. -/
def Obligations.EnvelopeFormulaPerStage : Prop :=
  ∀ (P : Params) (v : Voice P) (now : Tick),
    let base : Int := (v.vel.toNat * 32768 : Int) / 127
    let sus : Int := base * v.sus.toNat / 10
    let el : Int := ((now.toNat : Int) - v.start.toNat) % 2 ^ 32
    let er : Int := ((now.toNat : Int) - v.relTick.toNat) % 2 ^ 32
    (v.released = true → er < v.rel.toNat → env v now = sus * (v.rel.toNat - er) / v.rel.toNat) ∧
    (v.released = true → (v.rel.toNat : Int) ≤ er → env v now = 0) ∧
    (v.released = false → el < v.atk.toNat → env v now = base * el / v.atk.toNat) ∧
    (v.released = false → (v.atk.toNat : Int) ≤ el → el < v.atk.toNat + v.dec.toNat →
      env v now = base - (base - sus) * (el - v.atk.toNat) / v.dec.toNat) ∧
    (v.released = false → (v.atk.toNat : Int) + v.dec.toNat ≤ el → env v now = sus)

/-- R152, R153: the levels where the stages meet. -/
def Obligations.EnvelopeLevelsAtStageBounds : Prop :=
  ∀ (P : Params) (v : Voice P) (now : Tick),
    (v.released = false → v.el now = 0 → 0 < v.atk.toNat → env v now = 0) ∧
    (v.released = false → v.el now = v.atk.toNat → 0 < v.dec.toNat → env v now = v.base) ∧
    (v.released = false → v.el now = v.atk.toNat → v.dec.toNat = 0 → env v now = v.susLevel) ∧
    (v.released = true → v.er now = 0 → 0 < v.rel.toNat → env v now = v.susLevel) ∧
    (v.released = true → v.rel.toNat ≤ v.er now → env v now = 0)

/-- R154: `0 <= sus <= base <= ONE`, `base = ONE` only for full velocity, and the amplitude between the levels of its stage. -/
def Obligations.EnvelopeStaysInRange : Prop :=
  ∀ (P : Params) (v : Voice P) (now : Tick), v.sus.toNat ≤ 10 →
    0 ≤ v.susLevel ∧ v.susLevel ≤ v.base ∧ v.base ≤ one ∧ (v.base = one ↔ v.vel.toNat = 127) ∧
    0 ≤ env v now ∧ env v now ≤ v.base ∧
    (v.stage now = .decay → v.susLevel ≤ env v now) ∧ (v.stage now = .release → env v now ≤ v.susLevel) ∧
    (v.vel.toNat = 0 → env v now = 0) ∧ (v.sus.toNat = 0 → v.susLevel = 0)

/-- R152, R153: within one stage the level goes one way: up in the attack, down in decay and release. -/
def Obligations.EnvelopeIsMonotoneInEachStage : Prop :=
  ∀ (P : Params) (v : Voice P) (now later : Tick), v.sus.toNat ≤ 10 → v.stage now = v.stage later →
    (v.stage now = .attack → v.el now ≤ v.el later → env v now ≤ env v later) ∧
    (v.stage now = .decay → v.el now ≤ v.el later → env v later ≤ env v now) ∧
    (v.stage now = .release → v.er now ≤ v.er later → env v later ≤ env v now)

/-- R13, R163: the amplitude depends on differences of ticks only, so a rollover of the tick counter inside a note changes
nothing. -/
def Obligations.EnvelopeIsRolloverSafe : Prop :=
  ∀ (P : Params) (v : Voice P) (now shift : Tick),
    env { v with start := v.start + shift, relTick := v.relTick + shift } (now + shift) = env v now

/-- R155: `SET_ADSR` retargets every active voice on the channel, sounding or releasing, and nothing else. -/
def Obligations.SetAdsrRetunesActiveVoices : Prop :=
  ∀ (s : State) (ch : BitVec 8) (a d r : BitVec 16) (sus : BitVec 4),
    (ch.toNat < s.params.nch → ∃ (b : Block s.params) (level : BitVec 4),
      exec (.setAdsr ch a d sus r) s = .next (s.withBlock b) ∧
      level.toNat = min sus.toNat 10 ∧ s.block.SameButVoices b ∧ ∀ i : Fin s.params.nv, b.voices[i] =
        if (s.block.voices[i]).active = true ∧ (s.block.voices[i]).ch.val = ch.toNat
        then { s.block.voices[i] with atk := a, dec := d, sus := level, rel := r } else s.block.voices[i]) ∧
    (¬ ch.toNat < s.params.nch → exec (.setAdsr ch a d sus r) s = .next s)

/-- R156 to R159: the four single setters. -/
def Obligations.SingleSettersRetuneActiveVoices : Prop :=
  ∀ (s : State) (ch : BitVec 8) (x : BitVec 16),
    let on := fun i : Fin s.params.nv =>
      (s.block.voices[i]).active = true ∧ (s.block.voices[i]).ch.val = ch.toNat
    (ch.toNat < s.params.nch →
      (∃ b : Block s.params, exec (.setAttack ch x) s = .next (s.withBlock b) ∧ s.block.SameButVoices b ∧ ∀ i : Fin s.params.nv,
        (on i → b.voices[i] = { s.block.voices[i] with atk := x }) ∧ (¬ on i → b.voices[i] = s.block.voices[i])) ∧
      (∃ b : Block s.params, exec (.setDecay ch x) s = .next (s.withBlock b) ∧ s.block.SameButVoices b ∧ ∀ i : Fin s.params.nv,
        (on i → b.voices[i] = { s.block.voices[i] with dec := x }) ∧ (¬ on i → b.voices[i] = s.block.voices[i])) ∧
      (∃ (b : Block s.params) (level : BitVec 4), exec (.setSustain ch x) s = .next (s.withBlock b) ∧ level.toNat = min x.toNat 10 ∧
        s.block.SameButVoices b ∧ ∀ i : Fin s.params.nv,
        (on i → b.voices[i] = { s.block.voices[i] with sus := level }) ∧ (¬ on i → b.voices[i] = s.block.voices[i])) ∧
      (∃ b : Block s.params, exec (.setRelease ch x) s = .next (s.withBlock b) ∧ s.block.SameButVoices b ∧ ∀ i : Fin s.params.nv,
        (on i → b.voices[i] = { s.block.voices[i] with rel := x }) ∧ (¬ on i → b.voices[i] = s.block.voices[i]))) ∧
    (¬ ch.toNat < s.params.nch →
      exec (.setAttack ch x) s = .next s ∧ exec (.setDecay ch x) s = .next s ∧
      exec (.setSustain ch x) s = .next s ∧ exec (.setRelease ch x) s = .next s)

/-- R155 (b), R292: on a channel with no active voice the envelope setters change nothing and nothing is remembered. -/
def Obligations.SettersForgetIdleChannels : Prop :=
  ∀ (s : State) (ch : BitVec 8) (a d r : BitVec 16) (sus : BitVec 4), s.block.chActive ch.toNat = false →
    exec (.setAdsr ch a d sus r) s = .next s ∧ exec (.setAttack ch a) s = .next s ∧
    exec (.setDecay ch d) s = .next s ∧ exec (.setSustain ch r) s = .next s ∧ exec (.setRelease ch r) s = .next s

/-- R160, R161: `UPDATE` makes inactive exactly the releasing voices whose release time is up. -/
def Obligations.UpdateRetiresFinishedVoices : Prop :=
  ∀ s : State, ∃ b : Block s.params, exec .update s = .next (s.withBlock b) ∧ s.block.SameButVoices b ∧
    ∀ i : Fin s.params.nv, b.voices[i] =
      if (s.block.voices[i]).active = true ∧ (s.block.voices[i]).released = true ∧
        ((s.block.voices[i]).rel.toNat : Int) ≤ ((s.now.toNat : Int) - (s.block.voices[i]).relTick.toNat) % 2 ^ 32
      then { s.block.voices[i] with active := false } else s.block.voices[i]

/-- R153, R160, R212: a voice is retired only when its amplitude is 0, so retirement never changes a mix. -/
def Obligations.RetirementIsInaudible : Prop :=
  ∀ (P : Params) (b : Block P) (now : Tick) (noise : Vector Q15 P.nv),
    (b.retire now).mix now noise = b.mix now noise ∧
    ∀ i : Fin P.nv, (b.voices[i]).finished now = true → env b.voices[i] now = 0

/-! ### Oscillator -/

/-- R183 to R186: the four plain waveforms, in plain arithmetic on the phase. -/
def Obligations.PlainWaveformValues : Prop :=
  ∀ (P : Params) (p : BitVec 32),
    sine P p = P.sineRom.getD (p.toNat / 2 ^ 24) 0 ∧
    (p.toNat = 0 ∨ p.toNat = 2 ^ 31 → square p = 0) ∧
    (0 < p.toNat → p.toNat < 2 ^ 31 → square p = 32768) ∧ (2 ^ 31 < p.toNat → square p = -32768) ∧
    saw p = (p.toNat / 2 ^ 16 : Nat) - 32768 ∧
    (p.toNat < 2 ^ 31 → tri p = (p.toNat / 2 ^ 15 : Nat) - 32768) ∧
    (2 ^ 31 ≤ p.toNat → tri p = 3 * 32768 - (p.toNat / 2 ^ 15 : Nat))

/-- R188, R189: what a voice's sample is taken from; R187, R191: it stays in `[-ONE, ONE]`. -/
def Obligations.VoiceSampleFollowsItsWave : Prop :=
  ∀ (P : Params) (v : Voice P) (noise : Q15),
    (v.wave = .noise → wave v noise = max (-32768) (min 32768 noise.toInt)) ∧
    (v.wave ≠ .noise → v.harm.toNat ≠ 0 → wave v noise = harm P v.wave v.harm.toNat v.phase) ∧
    (v.harm.toNat = 0 →
      (v.wave = .sine → wave v noise = sine P v.phase) ∧ (v.wave = .square → wave v noise = square v.phase) ∧
      (v.wave = .saw → wave v noise = saw v.phase) ∧ (v.wave = .triangle → wave v noise = tri v.phase)) ∧
    -one ≤ wave v noise ∧ wave v noise ≤ one

/-- R190: the partials are added one by one, the even ones left out for a triangle, and the sum is divided by the count requested
when it is more than one. With one harmonic every tag gives the sine, and `SINE`, `SQUARE` and `SAW` give the same. -/
def Obligations.HarmonicsSumSinePartials : Prop :=
  ∀ (P : Params) (w : WaveTag) (H : Nat) (p : BitVec 32),
    partialSum P w 0 p = 0 ∧
    partialSum P w (H + 1) p = partialSum P w H p + (if w = .triangle ∧ (H + 1) % 2 = 0 then 0
      else P.sineRom.getD ((H + 1) * p.toNat % 2 ^ 32 / 2 ^ 24) 0 / (H + 1 : Int)) ∧
    (1 < H → harm P w H p = partialSum P w H p / H) ∧ harm P w 1 p = sine P p ∧
    harm P .square H p = harm P .sine H p ∧ harm P .saw H p = harm P .sine H p

/-- R191: the bounds of the harmonics variant, and that a 19-bit signed accumulator is enough. -/
def Obligations.HarmonicsStayInRange : Prop :=
  ∀ (P : Params) (w : WaveTag) (H : Nat) (p : BitVec 32), 1 ≤ H → H ≤ 15 →
    -one ≤ harm P w H p ∧ harm P w H p ≤ one ∧ -2 ^ 18 ≤ partialSum P w H p ∧ partialSum P w H p < 2 ^ 18

/-- R195: `SET_WAVE` writes the channel's two registers and touches no voice; a channel or a tag out of range and it does
nothing. -/
def Obligations.SetWaveWritesTheChannel : Prop :=
  ∀ (s : State) (ch : BitVec 8) (tag count : BitVec 16),
    (∀ h : ch.toNat < s.params.nch, tag.toNat ≤ 4 →
      ∃ b : Block s.params, exec (.setWave ch tag count) s = .next (s.withBlock b) ∧
      (b.chans[ch.toNat]).wave.code.toNat = tag.toNat ∧
      (b.chans[ch.toNat]).harm.toNat = min count.toNat s.params.hmax ∧
      (b.chans[ch.toNat]).vol = (s.block.chans[ch.toNat]).vol ∧
      (∀ d : Fin s.params.nch, d.val ≠ ch.toNat → b.chans[d] = s.block.chans[d]) ∧
      b = { s.block with chans := b.chans }) ∧
    (¬ (ch.toNat < s.params.nch ∧ tag.toNat ≤ 4) → exec (.setWave ch tag count) s = .next s)

/-! ### Mixer -/

/-- R210, R211, R214: what one `SAMPLE_TICK` leaves: retired voices inactive and not advanced, every other active voice advanced
by its increment, the mix of what is then there written to `MIX_OUT` and pushed. -/
def Obligations.SampleTickMakesOneSample : Prop :=
  ∀ s : State, s.block.mvol.toNat ≤ 10 → ∃ b u : Block s.params,
    exec .sampleTick s = .next (s.withBlock b) ∧ exec .update s = .next (s.withBlock u) ∧
    (∀ i : Fin s.params.nv, ((u.voices[i]).active = false → b.voices[i] = u.voices[i]) ∧
      ((u.voices[i]).active = true →
        b.voices[i] = { u.voices[i] with phase := (u.voices[i]).phase + (u.voices[i]).inc })) ∧
    b.mixOut.toInt = mixScale s.block.mvol (({ u with voices := b.voices } : Block s.params).terms s.now s.noise) ∧
    b.enc = { s.block.enc with bufPrev := s.block.enc.bufCur, bufCur := b.mixOut } ∧
    b = { s.block with voices := b.voices, mixOut := b.mixOut, enc := b.enc }

/-- R212, R213, R214: the mix is the floored average of the contributing voices' floored terms, clamped, and then scaled by the
master volume; 0 with no contributing voice. A term has its channel's volume in it where the parameter says so. -/
def Obligations.MixAveragesTheContributors : Prop :=
  ∀ (P : Params) (b : Block P) (now : Tick) (noise : Vector Q15 P.nv),
    let contributors := (List.finRange P.nv).filter fun i =>
      (b.voices[i]).active && (b.voices[i]).freq != 0 && env b.voices[i] now != 0
    let level := fun i : Fin P.nv => env b.voices[i] now * wave b.voices[i] noise[i] / 32768
    let term := fun i : Fin P.nv =>
      if P.mixAppliesChvol then level i * (b.chans[(b.voices[i]).ch]).vol.toNat / 10 else level i
    (contributors.length = 0 → b.mix now noise = 0) ∧
    (contributors.length ≠ 0 → b.mix now noise =
      max (-32768) (min 32768 ((contributors.map term).sum / contributors.length)) * b.mvol.toNat / 10)

/-- R214, R215: every term is within `[-ONE, ONE]`, the clamp of the average never changes its argument, no contributing voice
gives 0, and the scaled result is within `[-ONE, ONE]`. -/
def Obligations.MixStaysInRangeWithoutClamp : Prop :=
  ∀ (P : Params) (b : Block P) (now : Tick) (noise : Vector Q15 P.nv),
    (∀ i : Fin P.nv, (b.voices[i]).sus.toNat ≤ 10) → (∀ c : Fin P.nch, (b.chans[c]).vol.toNat ≤ 10) →
    b.mvol.toNat ≤ 10 →
    (∀ t ∈ b.terms now noise, -one ≤ t ∧ t ≤ one) ∧
    (b.terms now noise = [] → b.mix now noise = 0) ∧
    (b.terms now noise ≠ [] →
      b.mix now noise = (b.terms now noise).sum / (b.terms now noise).length * b.mvol.toNat / 10) ∧
    -one ≤ b.mix now noise ∧ b.mix now noise ≤ one

/-- R216: the mix does not depend on the order in which the voices are visited. -/
def Obligations.MixIgnoresVoiceOrder : Prop :=
  ∀ (P : Params) (a b : Block P) (now : Tick) (noiseA noiseB : Vector Q15 P.nv) (order : Equiv.Perm (Fin P.nv)),
    (∀ i : Fin P.nv, b.voices[i] = a.voices[order i] ∧ noiseB[i] = noiseA[order i]) →
    b.chans = a.chans → b.mvol = a.mvol → b.mix now noiseB = a.mix now noiseA

/-- R212, R127: a voice that is inactive, has `FREQ = 0`, or has amplitude 0 is left out: in its place any other silent voice
gives the same mix, whatever its wave. -/
def Obligations.SilentVoicesDoNotDilute : Prop :=
  ∀ (P : Params) (a b : Block P) (now : Tick) (noise : Vector Q15 P.nv),
    (∀ i : Fin P.nv, b.voices[i] = a.voices[i] ∨
      (((a.voices[i]).active = false ∨ (a.voices[i]).freq = 0 ∨ env a.voices[i] now = 0) ∧
        ((b.voices[i]).active = false ∨ (b.voices[i]).freq = 0 ∨ env b.voices[i] now = 0))) →
    b.chans = a.chans → b.mvol = a.mvol → b.mix now noise = a.mix now noise

/-- R217: `SAMPLE_TICK` leaves the encoder as `DS_PUSH MIX_OUT` would. -/
def Obligations.SampleTickPushesItsMix : Prop :=
  ∀ s : State, ∃ b c : Block s.params, exec .sampleTick s = .next (s.withBlock b) ∧
    exec (.dsPush (b.mixOut.signExtend 32)) s = .next (s.withBlock c) ∧ b.enc = c.enc

/-! ### Encoder -/

/-- R232, R233: the push rotates the two slots in one event, clamped, running or stopped, and touches nothing else. -/
def Obligations.DsPushRotatesTheBuffer : Prop :=
  ∀ (s : State) (sample : BitVec 32), ∃ (b : Block s.params) (cur : Q15),
    exec (.dsPush sample) s = .next (s.withBlock b) ∧
    cur.toInt = max (-32768) (min 32768 sample.toInt) ∧
    b = { s.block with enc := { s.block.enc with bufPrev := s.block.enc.bufCur, bufCur := cur } }

/-- R231, R236, R237: start from stopped, start while running, stop. -/
def Obligations.EncoderStartsAndStops : Prop :=
  ∀ s : State,
    (s.block.enc.run = false → exec .dsStart s = .next (s.withBlock
      { s.block with enc := { s.block.enc with run := true, phase := 0, pwmEn := true } })) ∧
    (s.block.enc.run = true → exec .dsStart s = .next s) ∧
    exec .dsStop s = .next (s.withBlock
      { s.block with enc := { s.block.enc with run := false, pwmEn := false, pwmDuty := 0, bit := false } })

/-- R238: the encoder volume is clamped to `ONE`. -/
def Obligations.EncoderVolumeClampsToOne : Prop :=
  ∀ (s : State) (volume : BitVec 16), ∃ b : Block s.params, exec (.dsSetVol volume) s = .next (s.withBlock b) ∧
    b.enc.vol.toNat = min volume.toNat 32768 ∧ b = { s.block with enc := { s.block.enc with vol := b.enc.vol } }

/-- R240: a pulse while stopped changes nothing; a pulse while running computes every register exactly, none of its values lost
in a register's width. -/
def Obligations.PulseEmitsOneBit : Prop :=
  ∀ s : State, (s.block.enc.run = false → exec .pulse s = .next s) ∧
    (s.block.enc.run = true → s.block.enc.Inv s.params →
      let e := s.block.enc
      let interp : Int := e.bufPrev.toInt + (e.bufCur.toInt - e.bufPrev.toInt) * e.phase.toNat / (s.params.osr : Int)
      let u : Int := interp * e.vol.toNat / 32768 + 32768
      let sum : Int := u + e.err.toInt
      ∃ b : Block s.params, exec .pulse s = .next (s.withBlock b) ∧
        (32768 < sum → b.enc.bit = true ∧ b.enc.err.toInt = sum - 65536 ∧ b.enc.pwmDuty = s.params.pwmPeriod) ∧
        (sum ≤ 32768 → b.enc.bit = false ∧ b.enc.err.toInt = sum ∧ b.enc.pwmDuty = 0) ∧
        b.enc.phase.toNat = (e.phase.toNat + 1) % s.params.osr ∧
        b = { s.block with enc := { e with
          err := b.enc.err, phase := b.enc.phase, bit := b.enc.bit, pwmDuty := b.enc.pwmDuty } })

/-- R325: the ranges of the encoder's intermediate values. -/
def Obligations.PulseIntermediatesStayInRange : Prop :=
  ∀ (P : Params) (e : Encoder), e.Inv P →
    min e.bufPrev.toInt e.bufCur.toInt ≤ e.interp P ∧ e.interp P ≤ max e.bufPrev.toInt e.bufCur.toInt ∧
    -one ≤ e.scaled P ∧ e.scaled P ≤ one ∧ 0 ≤ e.mapped P ∧ e.mapped P ≤ 65536 ∧
    -32767 ≤ e.sum P ∧ e.sum P ≤ 98304

/-- R242: the error stays in its range over a pulse. -/
def Obligations.QuantisationErrorStaysBounded : Prop :=
  ∀ (P : Params) (e : Encoder), e.Inv P →
    -32767 ≤ (e.pulse P).err.toInt ∧ (e.pulse P).err.toInt ≤ 32768 ∧ (e.pulse P).Inv P

/-- R243: over any number of consecutive pulses while running, whatever commands fall between them (pushes, volume changes, a stop and
a start: all but a `RESET`), the 1 bits account exactly for the values of `u` that the pulses saw, up to the error carried; so
the fraction of 1 bits differs from the mean input by less than one bit in all. From every legal state, over the next `n`
events. -/
def Obligations.PulseDensityFollowsTheInput : Prop :=
  ∀ (s : State) (n : Nat), s.Inv → Event.reset ∉ s.pending.take n →
    ∃ t, Sys2Proof.core.run n s = .next t ∧
      (s.onesEmitted n : Int) * 65536 = s.inputSum n + s.block.enc.err.toInt - t.block.enc.err.toInt ∧
      (s.onesEmitted n : Int) * 65536 - s.inputSum n < 65536 ∧
      -65536 < (s.onesEmitted n : Int) * 65536 - s.inputSum n

/-- R244: constant inputs at unit volume from a zero error: `ONE` gives all ones, `-ONE` all zeros, 0 alternates, the error
never drifting. -/
def Obligations.ConstantInputStreams : Prop :=
  ∀ (P : Params) (e : Encoder) (n : Nat), e.Inv P → e.run = true → e.vol.toNat = 32768 → e.err.toInt = 0 →
    e.bufPrev = e.bufCur →
    (e.bufCur.toInt = 32768 → e.ones P n = n ∧ (e.pulses P n).err.toInt = 0) ∧
    (e.bufCur.toInt = -32768 → e.ones P n = 0 ∧ (e.pulses P n).err.toInt = 0) ∧
    (e.bufCur.toInt = 0 → e.ones P (2 * n) = n ∧ (e.pulses P (2 * n)).err.toInt = 0 ∧
      (e.pulses P (2 * n + 1)).bit = false ∧ (e.pulses P (2 * n + 2)).bit = true)

/-- R245 (a): with no push the consumer sweeps from `BUF_PREV` toward `BUF_CUR` again and again, once in `OSR` pulses. -/
def Obligations.SweepRepeatsEveryOsrPulses : Prop :=
  ∀ (P : Params) (e : Encoder), e.run = true → e.phase.toNat < P.osr →
    (e.pulses P P.osr).phase = e.phase ∧ (e.pulses P P.osr).interp P = e.interp P ∧
    ∀ n, (e.pulses P n).bufCur = e.bufCur ∧ (e.pulses P n).bufPrev = e.bufPrev

/-! ### Output ports -/

/-- R44, R45, R46, R32: the status ports. The count fits its 4 bits, a query for no channel reads 0, and an envelope level fits its
17-bit port. -/
def Obligations.StatusPortsFollowTheState : Prop :=
  ∀ (P : Params) (b : Block P) (now : Tick), b.Inv →
    (b.outputs now).activeCount.toNat = ((List.finRange P.nv).filter fun i => (b.voices[i]).active).length ∧
    (∀ c : Fin P.nch, (b.outputs now).chActive[c] = true ↔
      ∃ i : Fin P.nv, (b.voices[i]).active = true ∧ (b.voices[i]).ch = c) ∧
    (∀ c, P.nch ≤ c → b.chActive c = false) ∧
    (∀ i : Fin P.nv, ((b.outputs now).envOut[i]).toInt =
      if (b.voices[i]).active = true then env b.voices[i] now else 0) ∧
    (b.outputs now).mixOut = b.mixOut ∧ (b.outputs now).dsBit = b.enc.bit ∧ (b.outputs now).pwmEn = b.enc.pwmEn ∧
    (b.outputs now).pwmDuty = b.enc.pwmDuty
end

