-- ==== Sys2Proof/Laws/Arith.lean ====
section
/-! SUPPORT. What the arithmetic primitives of R9 do. -/

namespace Sys2Proof.Laws

open Sys2Proof.Machine

/-- `fdiv` is the floor: the largest `q` with `q * b <= a` (R9). -/
theorem fdiv_spec (a : Int) {b : Int} (hb : 0 < b) : fdiv a b * b ≤ a ∧ a < (fdiv a b + 1) * b := by
  constructor
  · exact Int.ediv_mul_le a (by omega)
  · rw [fdiv, add_mul, one_mul]; exact Int.lt_ediv_add_one_mul_self a hb |> fun h => by linarith

theorem fdiv_le_fdiv {a c b : Int} (hb : 0 < b) (h : a ≤ c) : fdiv a b ≤ fdiv c b := Int.ediv_le_ediv hb h

theorem le_fdiv_of_mul_le {a b c : Int} (hb : 0 < b) (h : c * b ≤ a) : c ≤ fdiv a b := (Int.le_ediv_iff_mul_le hb).2 h

theorem fdiv_le_of_le_mul {a b c : Int} (hb : 0 < b) (h : a ≤ c * b) : fdiv a b ≤ c := by
  have := Int.ediv_le_ediv hb h
  rwa [Int.mul_ediv_cancel _ (by omega)] at this

theorem fdiv_nonneg {a b : Int} (hb : 0 < b) (ha : 0 ≤ a) : 0 ≤ fdiv a b := Int.ediv_nonneg ha hb.le

@[simp] theorem zero_fdiv (b : Int) : fdiv 0 b = 0 := Int.zero_ediv b

@[simp] theorem fdiv_one (a : Int) : fdiv a 1 = a := Int.ediv_one a

theorem mul_fdiv_cancel (a : Int) {b : Int} (hb : 0 < b) : fdiv (a * b) b = a := Int.mul_ediv_cancel a (by omega)

/-- The clamp lands in its interval. -/
theorem clampLevel_range (x : Int) : -one ≤ clampLevel x ∧ clampLevel x ≤ one := by
  unfold clampLevel clamp one; split_ifs <;> omega

/-- The clamp changes nothing inside its interval. -/
theorem clampLevel_of_range {x : Int} (h : -one ≤ x ∧ x ≤ one) : clampLevel x = x := by
  unfold clampLevel clamp; split_ifs <;> omega

theorem clampLevel_eq (x : Int) : clampLevel x = max (-one) (min one x) := by
  unfold clampLevel clamp one; split_ifs <;> omega

/-- A 17-bit register holds any integer of `[-65536, 65535]`. -/
theorem toQ15_toInt {x : Int} (h : -65536 ≤ x ∧ x ≤ 65535) : (toQ15 x).toInt = x := by
  rw [toQ15, BitVec.toInt_ofInt, Int.bmod_eq_of_le_mul_two] <;> omega

/-- A level survives its register. -/
theorem toQ15_toInt_level {x : Int} (h : -one ≤ x ∧ x ≤ one) : (toQ15 x).toInt = x :=
  toQ15_toInt (by unfold one at h; omega)

@[simp] theorem toQ15_of_toInt (x : Q15) : toQ15 x.toInt = x := BitVec.ofInt_toInt

theorem toQ15_clampLevel_toInt (x : Int) : (toQ15 (clampLevel x)).toInt = clampLevel x :=
  toQ15_toInt_level (clampLevel_range x)

theorem elapsed_lt (now t0 : Tick) : elapsed now t0 < 2 ^ 32 := (now - t0).isLt

/-- `elapsed` is the difference of the ticks modulo `2^32` (R13). -/
theorem elapsed_eq (now t0 : Tick) : (elapsed now t0 : Int) = ((now.toNat : Int) - t0.toNat) % 2 ^ 32 := by
  have h1 := now.isLt
  have h2 := t0.isLt
  rw [elapsed, BitVec.toNat_sub]
  omega

/-- A common shift of both ticks changes nothing (R163). -/
theorem elapsed_add_add (now t0 shift : Tick) : elapsed (now + shift) (t0 + shift) = elapsed now t0 := by
  simp [elapsed]

end Sys2Proof.Laws
end

