-- ==== Sys2Proof/Laws/Decode.lean ====
section
/-! SUPPORT. The fields of a command word made from its fields (R90). -/

namespace Sys2Proof.Laws

/-- Appending bit vectors adds their numbers, the first shifted up. -/
theorem toNat_append_eq {m n : Nat} (x : BitVec m) (y : BitVec n) : (x ++ y).toNat = x.toNat * 2 ^ n + y.toNat := by
  rw [BitVec.toNat_append, ← Nat.shiftLeft_add_eq_or_of_lt y.isLt, Nat.shiftLeft_eq]

/-- A field of a word is a quotient and a remainder of its number. -/
theorem toNat_field {n : Nat} (w : BitVec n) (lo len : Nat) :
    (w.extractLsb' lo len).toNat = w.toNat / 2 ^ lo % 2 ^ len := by
  rw [BitVec.extractLsb'_toNat, Nat.shiftRight_eq_div_pow]

section

variable (op aux : BitVec 4) (ch : BitVec 8) (a b c : BitVec 16)

/-- The number of a command word before the powers are put together. -/
theorem toNat_cw_nested : (cw op aux ch a b c).toNat =
    ((((op.toNat * 2 ^ 4 + aux.toNat) * 2 ^ 8 + ch.toNat) * 2 ^ 16 + a.toNat) * 2 ^ 16 + b.toNat) * 2 ^ 16 + c.toNat := by
  simp only [cw, toNat_append_eq]

@[simp] theorem op_cw : (cw op aux ch a b c).op = op := by
  have := op.isLt; have := aux.isLt; have := ch.isLt; have := a.isLt; have := b.isLt; have := c.isLt
  apply BitVec.eq_of_toNat_eq
  rw [Word.op, toNat_field, toNat_cw_nested]
  omega

@[simp] theorem aux_cw : (cw op aux ch a b c).aux = aux := by
  have := op.isLt; have := aux.isLt; have := ch.isLt; have := a.isLt; have := b.isLt; have := c.isLt
  apply BitVec.eq_of_toNat_eq
  rw [Word.aux, toNat_field, toNat_cw_nested]
  omega

@[simp] theorem ch_cw : (cw op aux ch a b c).ch = ch := by
  have := op.isLt; have := aux.isLt; have := ch.isLt; have := a.isLt; have := b.isLt; have := c.isLt
  apply BitVec.eq_of_toNat_eq
  rw [Word.ch, toNat_field, toNat_cw_nested]
  omega

@[simp] theorem a_cw : (cw op aux ch a b c).a = a := by
  have := op.isLt; have := aux.isLt; have := ch.isLt; have := a.isLt; have := b.isLt; have := c.isLt
  apply BitVec.eq_of_toNat_eq
  rw [Word.a, toNat_field, toNat_cw_nested]
  omega

@[simp] theorem b_cw : (cw op aux ch a b c).b = b := by
  have := op.isLt; have := aux.isLt; have := ch.isLt; have := a.isLt; have := b.isLt; have := c.isLt
  apply BitVec.eq_of_toNat_eq
  rw [Word.b, toNat_field, toNat_cw_nested]
  omega

@[simp] theorem c_cw : (cw op aux ch a b c).c = c := by
  have := op.isLt; have := aux.isLt; have := ch.isLt; have := a.isLt; have := b.isLt; have := c.isLt
  apply BitVec.eq_of_toNat_eq
  rw [Word.c, toNat_field, toNat_cw_nested]
  omega

@[simp] theorem low32_cw : (cw op aux ch a b c).low32 = b ++ c := by
  have := op.isLt; have := aux.isLt; have := ch.isLt; have := a.isLt; have := b.isLt; have := c.isLt
  apply BitVec.eq_of_toNat_eq
  rw [Word.low32, toNat_field, toNat_cw_nested, toNat_append_eq]
  omega

end

end Sys2Proof.Laws
end

