-- ==== Sys2Proof/Laws/State.lean ====
section
/-! SUPPORT. One lemma for each field and each named update of the state, so that no proof unfolds an update. -/

namespace Sys2Proof.Machine

variable {P : Params}

/-! ### withBlock and sample -/

@[simp] theorem State.withBlock_params (s : State) (b) : (s.withBlock b).params = s.params := rfl
@[simp] theorem State.withBlock_block (s : State) (b) : (s.withBlock b).block = b := rfl
@[simp] theorem State.withBlock_now (s : State) (b) : (s.withBlock b).now = s.now := rfl
@[simp] theorem State.withBlock_noise (s : State) (b) : (s.withBlock b).noise = s.noise := rfl
@[simp] theorem State.withBlock_pending (s : State) (b) : (s.withBlock b).pending = s.pending := rfl
@[simp] theorem State.withBlock_self (s : State) : s.withBlock s.block = s := rfl
@[simp] theorem State.withBlock_withBlock (s : State) (b c : Block s.params) : (s.withBlock b).withBlock c = s.withBlock c := rfl

@[simp] theorem State.sample_params (s : State) (now noise) : (s.sample now noise).params = s.params := rfl
@[simp] theorem State.sample_block (s : State) (now noise) : (s.sample now noise).block = s.block := rfl
@[simp] theorem State.sample_now (s : State) (now noise) : (s.sample now noise).now = now := rfl
@[simp] theorem State.sample_noise (s : State) (now noise) : (s.sample now noise).noise = noise := rfl
@[simp] theorem State.sample_pending (s : State) (now noise) : (s.sample now noise).pending = s.pending := rfl

@[simp] theorem State.present_params (s : State) (p) : (s.present p).params = s.params := rfl
@[simp] theorem State.present_block (s : State) (p) : (s.present p).block = s.block := rfl
@[simp] theorem State.present_pending (s : State) (p) : (s.present p).pending = s.pending ++ p.events := rfl

/-! ### The state after reset -/

@[simp] theorem State.resetWith_params (P : Params) : (State.resetWith P).params = P := rfl
@[simp] theorem State.resetWith_block (P : Params) : (State.resetWith P).block = Block.reset P := rfl
@[simp] theorem Block.reset_mvol (P : Params) : (Block.reset P).mvol = 10 := rfl
@[simp] theorem Block.reset_mixOut (P : Params) : (Block.reset P).mixOut = 0 := rfl
@[simp] theorem Block.reset_enc (P : Params) : (Block.reset P).enc = Encoder.reset := rfl

@[simp] theorem Block.reset_voices_getElem (P : Params) (j : Nat) (h : j < P.nv) :
    (Block.reset P).voices[j] = Voice.reset P := by simp [Block.reset]

@[simp] theorem Block.reset_chans_getElem (P : Params) (d : Nat) (h : d < P.nch) :
    (Block.reset P).chans[d] = Channel.reset := by simp [Block.reset]

/-! ### mapVoices -/

@[simp] theorem Block.mapVoices_getElem (f : Fin P.nv → Voice P → Voice P) (b : Block P) (j : Nat) (h : j < P.nv) :
    (b.mapVoices f).voices[j] = f ⟨j, h⟩ b.voices[j] := by simp [Block.mapVoices]

@[simp] theorem Block.mapVoices_chans (f) (b : Block P) : (b.mapVoices f).chans = b.chans := rfl
@[simp] theorem Block.mapVoices_mvol (f) (b : Block P) : (b.mapVoices f).mvol = b.mvol := rfl
@[simp] theorem Block.mapVoices_mixOut (f) (b : Block P) : (b.mapVoices f).mixOut = b.mixOut := rfl
@[simp] theorem Block.mapVoices_enc (f) (b : Block P) : (b.mapVoices f).enc = b.enc := rfl

/-- Two blocks with equal voices and equal other registers are equal. -/
theorem Block.ext_voices {a b : Block P} (hv : ∀ (j : Nat) (hj : j < P.nv), a.voices[j] = b.voices[j])
    (hc : a.chans = b.chans) (hm : a.mvol = b.mvol) (ho : a.mixOut = b.mixOut) (he : a.enc = b.enc) : a = b := by
  cases a
  cases b
  obtain rfl : _ = _ := Vector.ext hv
  cases hc; cases hm; cases ho; cases he
  rfl

/-- A loop that changes no voice of the pool changes nothing. -/
theorem Block.mapVoices_id (f : Fin P.nv → Voice P → Voice P) (b : Block P)
    (h : ∀ (j : Nat) (hj : j < P.nv), f ⟨j, hj⟩ b.voices[j] = b.voices[j]) : b.mapVoices f = b :=
  Block.ext_voices (fun j hj => by simpa using h j hj) rfl rfl rfl rfl

/-- Two loops in a row are one. -/
theorem Block.mapVoices_mapVoices (f g : Fin P.nv → Voice P → Voice P) (b : Block P) :
    (b.mapVoices f).mapVoices g = b.mapVoices fun j v => g j (f j v) := by
  simp [Block.mapVoices]

/-- Two loops that agree on the pool's voices leave the same block. -/
theorem Block.mapVoices_congr {f g : Fin P.nv → Voice P → Voice P} {b : Block P}
    (h : ∀ (j : Nat) (hj : j < P.nv), f ⟨j, hj⟩ b.voices[j] = g ⟨j, hj⟩ b.voices[j]) :
    b.mapVoices f = b.mapVoices g :=
  Block.ext_voices (fun j hj => by simpa using h j hj) rfl rfl rfl rfl

/-! ### updVoice, retune, retire, advance: loops over the pool -/

@[simp] theorem Block.updVoice_getElem (i : Nat) (f : Voice P → Voice P) (b : Block P) (j : Nat) (h : j < P.nv) :
    (b.updVoice i f).voices[j] = if j = i then f b.voices[j] else b.voices[j] := by simp [Block.updVoice]

@[simp] theorem Block.retune_getElem (c : Fin P.nch) (f : Voice P → Voice P) (b : Block P) (j : Nat)
    (h : j < P.nv) :
    (b.retune c f).voices[j] = if (b.voices[j]).activeOn c then f b.voices[j] else b.voices[j] := by simp [Block.retune]

@[simp] theorem Block.retire_getElem (now : Tick) (b : Block P) (j : Nat) (h : j < P.nv) :
    (b.retire now).voices[j] =
      if (b.voices[j]).finished now then { b.voices[j] with active := false } else b.voices[j] := by
  simp [Block.retire]

@[simp] theorem Block.advance_getElem (b : Block P) (j : Nat) (h : j < P.nv) :
    b.advance.voices[j] =
      if (b.voices[j]).active then { b.voices[j] with phase := (b.voices[j]).phase + (b.voices[j]).inc }
      else b.voices[j] := by
  simp [Block.advance]

@[simp] theorem Block.updVoice_chans (i f) (b : Block P) : (b.updVoice i f).chans = b.chans := rfl
@[simp] theorem Block.updVoice_mvol (i f) (b : Block P) : (b.updVoice i f).mvol = b.mvol := rfl
@[simp] theorem Block.updVoice_mixOut (i f) (b : Block P) : (b.updVoice i f).mixOut = b.mixOut := rfl
@[simp] theorem Block.updVoice_enc (i f) (b : Block P) : (b.updVoice i f).enc = b.enc := rfl

@[simp] theorem Block.retune_chans (c f) (b : Block P) : (b.retune c f).chans = b.chans := rfl
@[simp] theorem Block.retune_mvol (c f) (b : Block P) : (b.retune c f).mvol = b.mvol := rfl
@[simp] theorem Block.retune_mixOut (c f) (b : Block P) : (b.retune c f).mixOut = b.mixOut := rfl
@[simp] theorem Block.retune_enc (c f) (b : Block P) : (b.retune c f).enc = b.enc := rfl

@[simp] theorem Block.retire_chans (now) (b : Block P) : (b.retire now).chans = b.chans := rfl
@[simp] theorem Block.retire_mvol (now) (b : Block P) : (b.retire now).mvol = b.mvol := rfl
@[simp] theorem Block.retire_mixOut (now) (b : Block P) : (b.retire now).mixOut = b.mixOut := rfl
@[simp] theorem Block.retire_enc (now) (b : Block P) : (b.retire now).enc = b.enc := rfl

@[simp] theorem Block.advance_chans (b : Block P) : b.advance.chans = b.chans := rfl
@[simp] theorem Block.advance_mvol (b : Block P) : b.advance.mvol = b.mvol := rfl
@[simp] theorem Block.advance_mixOut (b : Block P) : b.advance.mixOut = b.mixOut := rfl
@[simp] theorem Block.advance_enc (b : Block P) : b.advance.enc = b.enc := rfl

/-! ### updChan -/

@[simp] theorem Block.updChan_getElem (c : Fin P.nch) (f : Channel → Channel) (b : Block P) (d : Nat) (h : d < P.nch) :
    (b.updChan c f).chans[d] = if d = c.val then f b.chans[d] else b.chans[d] := by
  simp [Block.updChan, Fin.ext_iff]

@[simp] theorem Block.updChan_voices (c f) (b : Block P) : (b.updChan c f).voices = b.voices := rfl
@[simp] theorem Block.updChan_mvol (c f) (b : Block P) : (b.updChan c f).mvol = b.mvol := rfl
@[simp] theorem Block.updChan_mixOut (c f) (b : Block P) : (b.updChan c f).mixOut = b.mixOut := rfl
@[simp] theorem Block.updChan_enc (c f) (b : Block P) : (b.updChan c f).enc = b.enc := rfl

/-! ### The encoder's updates -/

@[simp] theorem Encoder.push_bufCur (x e) : (Encoder.push x e).bufCur = toQ15 (clampLevel x) := rfl
@[simp] theorem Encoder.push_bufPrev (x e) : (Encoder.push x e).bufPrev = e.bufCur := rfl
@[simp] theorem Encoder.push_err (x e) : (Encoder.push x e).err = e.err := rfl
@[simp] theorem Encoder.push_phase (x e) : (Encoder.push x e).phase = e.phase := rfl
@[simp] theorem Encoder.push_vol (x e) : (Encoder.push x e).vol = e.vol := rfl
@[simp] theorem Encoder.push_run (x e) : (Encoder.push x e).run = e.run := rfl
@[simp] theorem Encoder.push_bit (x e) : (Encoder.push x e).bit = e.bit := rfl
@[simp] theorem Encoder.push_pwmEn (x e) : (Encoder.push x e).pwmEn = e.pwmEn := rfl
@[simp] theorem Encoder.push_pwmDuty (x e) : (Encoder.push x e).pwmDuty = e.pwmDuty := rfl

@[simp] theorem Block.push_voices (x) (b : Block P) : (b.push x).voices = b.voices := rfl
@[simp] theorem Block.push_chans (x) (b : Block P) : (b.push x).chans = b.chans := rfl
@[simp] theorem Block.push_mvol (x) (b : Block P) : (b.push x).mvol = b.mvol := rfl
@[simp] theorem Block.push_mixOut (x) (b : Block P) : (b.push x).mixOut = b.mixOut := rfl
@[simp] theorem Block.push_enc (x) (b : Block P) : (b.push x).enc = b.enc.push x := rfl

@[simp] theorem Block.updEnc_voices (f) (b : Block P) : (b.updEnc f).voices = b.voices := rfl
@[simp] theorem Block.updEnc_chans (f) (b : Block P) : (b.updEnc f).chans = b.chans := rfl
@[simp] theorem Block.updEnc_mvol (f) (b : Block P) : (b.updEnc f).mvol = b.mvol := rfl
@[simp] theorem Block.updEnc_mixOut (f) (b : Block P) : (b.updEnc f).mixOut = b.mixOut := rfl
@[simp] theorem Block.updEnc_enc (f) (b : Block P) : (b.updEnc f).enc = f b.enc := rfl

/-! ### Commands that are one shared operation -/

@[simp] theorem Block.allOff_eq (b : Block P) : b.allOff = b.mapVoices fun _ v => { v with active := false } := rfl
@[simp] theorem Block.setMvol_eq (volume) (b : Block P) : b.setMvol volume = { b with mvol := level10 volume } := rfl
@[simp] theorem Block.setAdsr_eq (ch attack decay sustain release) (b : Block P) :
    b.setAdsr ch attack decay sustain release = b.retuneOn ch fun v =>
      { v with atk := attack, dec := decay, sus := level10 sustain, rel := release } := rfl
@[simp] theorem Block.setAttack_eq (ch attack) (b : Block P) :
    b.setAttack ch attack = b.retuneOn ch fun v => { v with atk := attack } := rfl
@[simp] theorem Block.setDecay_eq (ch decay) (b : Block P) :
    b.setDecay ch decay = b.retuneOn ch fun v => { v with dec := decay } := rfl
@[simp] theorem Block.setSustain_eq (ch sustain) (b : Block P) :
    b.setSustain ch sustain = b.retuneOn ch fun v => { v with sus := level10 sustain } := rfl
@[simp] theorem Block.setRelease_eq (ch release) (b : Block P) :
    b.setRelease ch release = b.retuneOn ch fun v => { v with rel := release } := rfl
@[simp] theorem Block.dsPush_eq (sample) (b : Block P) : b.dsPush sample = b.push (pushedSample sample) := rfl
@[simp] theorem Block.dsStart_eq (b : Block P) : b.dsStart = b.updEnc Encoder.start := rfl
@[simp] theorem Block.dsStop_eq (b : Block P) : b.dsStop = b.updEnc Encoder.stop := rfl
@[simp] theorem Block.dsSetVol_eq (volume) (b : Block P) :
    b.dsSetVol volume = b.updEnc fun e => { e with vol := encoderVolume volume } := rfl
@[simp] theorem Block.pulse_eq (b : Block P) : b.pulse = b.updEnc (Encoder.pulse P) := rfl

/-! ### The step function of R48 -/

@[simp] theorem blockStep_cmd (word now noise) (b : Block P) :
    blockStep P (.cmd word now noise) b = blockExec P (decode word) now noise b := rfl
@[simp] theorem blockStep_pulse (b : Block P) : blockStep P .pulse b = b.pulse := rfl
@[simp] theorem blockStep_reset (b : Block P) : blockStep P .reset b = Block.reset P := rfl
@[simp] theorem blockRun_nil (b : Block P) : blockRun P [] b = b := rfl
@[simp] theorem blockRun_cons (e rest) (b : Block P) : blockRun P (e :: rest) b = blockRun P rest (blockStep P e b) := rfl
@[simp] theorem blockRun_append (es fs : List (Event P)) (b : Block P) :
    blockRun P (es ++ fs) b = blockRun P fs (blockRun P es b) := List.foldl_append

/-! ### emit -/

@[simp] theorem Block.emit_voices (x) (b : Block P) : (b.emit x).voices = b.voices := rfl
@[simp] theorem Block.emit_chans (x) (b : Block P) : (b.emit x).chans = b.chans := rfl
@[simp] theorem Block.emit_mvol (x) (b : Block P) : (b.emit x).mvol = b.mvol := rfl
@[simp] theorem Block.emit_mixOut (x) (b : Block P) : (b.emit x).mixOut = toQ15 x := rfl
@[simp] theorem Block.emit_enc (x) (b : Block P) : (b.emit x).enc = b.enc.push (toQ15 x).toInt := rfl

/-! ### The pool as a list -/

/-- The pool's list and its indexing agree. -/
theorem Block.voices_toList_getElem (b : Block P) (j : Nat) (h : j < b.voices.toList.length) :
    b.voices.toList[j] = b.voices[j]'(by simpa using h) := by simp

/-- A voice of the pool's list is a voice of the pool. -/
theorem Block.mem_voices_toList (b : Block P) (v : Voice P) :
    v ∈ b.voices.toList ↔ ∃ (j : Nat) (h : j < P.nv), b.voices[j] = v := by
  simp [List.mem_iff_getElem]

/-- The list of the pool after one voice is rewritten. -/
theorem Block.updVoice_toList (i : Nat) (f : Voice P → Voice P) (b : Block P) (h : i < P.nv) :
    (b.updVoice i f).voices.toList = b.voices.toList.set i (f b.voices[i]) := by
  apply List.ext_getElem <;> simp [List.getElem_set]
  intro j hj
  by_cases hji : j = i
  · subst hji; simp
  · simp [hji, Ne.symm hji]

end Sys2Proof.Machine
end

