-- ==== Sys2Proof/Laws/Encoder.lean ====
section
/-! SUPPORT. What a `PULSE` does to each encoder register (R240). -/

namespace Sys2Proof.Machine

@[simp] theorem Encoder.pulse_bufCur (P e) : (Encoder.pulse P e).bufCur = e.bufCur := by
  unfold Encoder.pulse; split <;> rfl

@[simp] theorem Encoder.pulse_bufPrev (P e) : (Encoder.pulse P e).bufPrev = e.bufPrev := by
  unfold Encoder.pulse; split <;> rfl

@[simp] theorem Encoder.pulse_vol (P e) : (Encoder.pulse P e).vol = e.vol := by
  unfold Encoder.pulse; split <;> rfl

@[simp] theorem Encoder.pulse_run (P e) : (Encoder.pulse P e).run = e.run := by
  unfold Encoder.pulse; split <;> rfl

@[simp] theorem Encoder.pulse_pwmEn (P e) : (Encoder.pulse P e).pwmEn = e.pwmEn := by
  unfold Encoder.pulse; split <;> rfl

theorem Encoder.pulse_of_stopped {P : Params} {e : Encoder} (h : e.run = false) : e.pulse P = e := by
  simp [Encoder.pulse, h]

theorem Encoder.pulse_of_running {P : Params} {e : Encoder} (h : e.run = true) : e.pulse P = e.pulseRunning P := by
  simp [Encoder.pulse, h]

theorem Encoder.pulse_bit {P : Params} {e : Encoder} (h : e.run = true) : (e.pulse P).bit = e.nextBit P := by
  rw [Encoder.pulse_of_running h]; rfl

theorem Encoder.pulse_pwmDuty {P : Params} {e : Encoder} (h : e.run = true) :
    (e.pulse P).pwmDuty = if (e.pulse P).bit then P.pwmPeriod else 0 := by
  rw [Encoder.pulse_of_running h]; rfl

/-- The phase counter's register holds every phase there is. -/
theorem Encoder.pulse_phase {P : Params} {e : Encoder} (h : e.run = true) :
    (e.pulse P).phase.toNat = (e.phase.toNat + 1) % P.osr := by
  have h1 := Nat.mod_lt (e.phase.toNat + 1) P.valid.osr_pos
  have h2 := P.valid.osr_le
  rw [Encoder.pulse_of_running h, Encoder.pulseRunning, BitVec.toNat_ofNat, Nat.mod_eq_of_lt (by omega)]

end Sys2Proof.Machine
end

