-- ==== Sys2Proof/Laws/Exec.lean ====
section
/-! SUPPORT. Once and for all what one instruction and one event can do: each answers the next state named here. -/

namespace Sys2Proof.Machine

variable {P : Params}

/-- The state an instruction leaves. -/
def State.after (i : Instr) (s : State) : State := s.withBlock (blockExec s.params i s.now s.noise s.block)

/-- Every instruction answers its next state: only the block changes. -/
theorem exec_eq_next_after (i : Instr) (s : State) : exec i s = .next (s.after i) := by cases i <;> rfl

/-- The same in terms of the block. -/
theorem exec_eq_next (i : Instr) (s : State) : exec i s = .next (s.withBlock (blockExec s.params i s.now s.noise s.block)) :=
  exec_eq_next_after i s

/-- An instruction that leaves the block as it is leaves the state as it is. -/
theorem exec_eq_next_self {i : Instr} {s : State} (h : blockExec s.params i s.now s.noise s.block = s.block) : exec i s = .next s := by
  rw [exec_eq_next, h, State.withBlock_self]

@[simp] theorem State.after_params (i : Instr) (s : State) : (s.after i).params = s.params := rfl
@[simp] theorem State.after_block (i : Instr) (s : State) : (s.after i).block = blockExec s.params i s.now s.noise s.block := rfl
@[simp] theorem State.after_now (i : Instr) (s : State) : (s.after i).now = s.now := rfl
@[simp] theorem State.after_noise (i : Instr) (s : State) : (s.after i).noise = s.noise := rfl
@[simp] theorem State.after_pending (i : Instr) (s : State) : (s.after i).pending = s.pending := rfl

/-- What an event leaves: a command leaves its port values as those sampled last. -/
def State.afterEvent (s : State) (e : Event s.params) : State :=
  match e with
  | .cmd word now noise => (s.sample now noise).after (decode word)
  | .pulse => s.after .pulse
  | .reset => s.resetEvent

/-- Every event answers its next state. -/
theorem applyEvent_eq (s : State) (e : Event s.params) : applyEvent s e = .next (s.afterEvent e) := by
  cases e <;> simp [applyEvent, State.afterEvent, exec_eq_next_after]

@[simp] theorem State.afterEvent_params (s : State) (e : Event s.params) : (s.afterEvent e).params = s.params := by
  cases e <;> rfl

/-- Nothing of a state but its block and its parameters has a part in the block an event leaves (R48). -/
theorem applyEvent_block (s : State) (e : Event s.params) :
    ∃ now noise, applyEvent s e = .next { s with block := blockStep s.params e s.block, now := now, noise := noise } := by
  rw [applyEvent_eq]
  cases e with
  | cmd word now noise => exact ⟨now, noise, rfl⟩
  | pulse => exact ⟨s.now, s.noise, rfl⟩
  | reset => exact ⟨s.now, s.noise, rfl⟩

/-- What is said of every block an instruction leaves, and of the block after reset, holds of the block every event leaves. -/
theorem State.afterEvent_block {s : State} {e : Event s.params} {M : (P : Params) → Block P → Prop}
    (hr : M s.params (Block.reset s.params)) (hi : ∀ i now noise, M s.params (blockExec s.params i now noise s.block)) :
    M (s.afterEvent e).params (s.afterEvent e).block := by
  cases e with
  | cmd word now noise => exact hi (decode word) now noise
  | pulse => exact hi .pulse s.now s.noise
  | reset => exact hr

theorem step_nil {s : State} (h : s.pending = []) : step s = .next s := by simp [step, h]

theorem step_cons {s : State} {e : Event s.params} {rest : List (Event s.params)} (h : s.pending = e :: rest) :
    step s = .next (State.afterEvent { s with pending := rest } e) := by simp [step, h, applyEvent_eq]

/-- Every step answers: it leaves the state, or what the next event leaves. -/
theorem step_cases (s : State) :
    (s.pending = [] ∧ step s = .next s) ∨ ∃ (e : Event s.params) (rest : List (Event s.params)), s.pending = e :: rest ∧
      step s = .next (State.afterEvent { s with pending := rest } e) := by
  cases h : s.pending with
  | nil => exact .inl ⟨rfl, step_nil h⟩
  | cons e rest => exact .inr ⟨e, rest, rfl, step_cons h⟩

/-- A run of one more step, after a step that answered next. -/
theorem run_succ (M : Host.Core) {s t : M.State} (n : Nat) (h : M.step s = .next t) : M.run (n + 1) s = M.run n t := by
  rw [Host.Core.run, h]

/-- A run of one step is the step. -/
theorem run_one (M : Host.Core) (s : M.State) : M.run 1 s = M.step s := by
  rw [Host.Core.run]
  cases M.step s <;> rfl

/-- `run_succ` of this machine, in its own names. -/
theorem core_run_succ {s t : State} (n : Nat) (h : step s = .next t) :
    Sys2Proof.core.run (n + 1) s = Sys2Proof.core.run n t := run_succ Sys2Proof.core n h

/-- `run_one` of this machine, in its own names. -/
theorem core_run_one (s : State) : Sys2Proof.core.run 1 s = step s := run_one Sys2Proof.core s

/-! ### The loops of the envelope setters, and the shapes of the voice and channel commands -/

theorem Block.retuneOn_of_lt {ch : BitVec 8} (h : ch.toNat < P.nch) (f : Voice P → Voice P) (b : Block P) :
    b.retuneOn ch f = b.retune ⟨ch.toNat, h⟩ f := by simp [Block.retuneOn, chan?, h]

theorem Block.retuneOn_of_not_lt {ch : BitVec 8} (h : ¬ ch.toNat < P.nch) (f : Voice P → Voice P) (b : Block P) :
    b.retuneOn ch f = b := by simp [Block.retuneOn, chan?, h]

/-- An envelope setter is a loop over the pool. -/
theorem Block.retuneOn_eq_mapVoices (ch : BitVec 8) (f : Voice P → Voice P) (b : Block P) :
    b.retuneOn ch f = b.mapVoices fun _ v => if v.active && v.ch.val == ch.toNat then f v else v := by
  by_cases h : ch.toNat < P.nch
  · rw [retuneOn_of_lt h, Block.retune]
    refine Block.mapVoices_congr fun j hj => ?_
    simp [Voice.activeOn, Fin.ext_iff]
  · rw [retuneOn_of_not_lt h]
    refine (Block.mapVoices_id _ _ fun j hj => if_neg ?_).symm
    have := (b.voices[j]).ch.isLt
    simp; omega

theorem Block.noteOn_of_range {ch : BitVec 8} {note : BitVec 16} (h : ch.toNat < P.nch)
    (hn : note.toNat ≤ 127) (vel : BitVec 16) (now : Tick) (b : Block P) :
    b.noteOn ch note vel now = b.updVoice (pickVoice b.voices.toList)
      (Voice.noteOn ⟨ch.toNat, h⟩ (b.chans[ch.toNat]) note.toNat (velocity vel) now) := by
  simp [Block.noteOn, chan?, note?, h, hn]

theorem Block.noteOn_of_not_range {ch : BitVec 8} {note : BitVec 16}
    (h : ¬ (ch.toNat < P.nch ∧ note.toNat ≤ 127)) (vel : BitVec 16) (now : Tick) (b : Block P) :
    b.noteOn ch note vel now = b := by
  by_cases hc : ch.toNat < P.nch
  · have hn : ¬ note.toNat ≤ 127 := fun hn => h ⟨hc, hn⟩
    simp [Block.noteOn, chan?, note?, hc, hn]
  · simp [Block.noteOn, chan?, hc]

theorem Block.noteOff_of_not_range {ch : BitVec 8} {note : BitVec 16}
    (h : ¬ (ch.toNat < P.nch ∧ note.toNat ≤ 127)) (now : Tick) (b : Block P) : b.noteOff ch note now = b := by
  by_cases hc : ch.toNat < P.nch
  · have hn : ¬ note.toNat ≤ 127 := fun hn => h ⟨hc, hn⟩
    simp [Block.noteOff, chan?, note?, hc, hn]
  · simp [Block.noteOff, chan?, hc]

theorem Block.noteOff_of_range {ch : BitVec 8} {note : BitVec 16} (h : ch.toNat < P.nch)
    (hn : note.toNat ≤ 127) (now : Tick) (b : Block P) :
    b.noteOff ch note now =
      match findPlaying ⟨ch.toNat, h⟩ (noteFreq P note.toNat) b.voices.toList with
      | some i => b.updVoice i (Voice.noteOff now)
      | none => b := by
  -- as a module the two sides have a matcher each, and the goal is left to `rfl`; as one text `simp` closes it
  simp [Block.noteOff, chan?, note?, h, hn]
  all_goals rfl

/-- Whatever `NOTE_OFF` does, it is a loop over the pool that releases one sounding voice or none. -/
theorem Block.noteOff_cases (ch : BitVec 8) (note : BitVec 16) (now : Tick) (b : Block P) :
    b.noteOff ch note now = b ∨ ∃ (i : Nat) (h : i < P.nv), (b.voices[i]).sounding = true ∧
      b.noteOff ch note now = b.updVoice i (Voice.noteOff now) := by
  by_cases hr : ch.toNat < P.nch ∧ note.toNat ≤ 127
  · rw [noteOff_of_range hr.1 hr.2]
    split
    · rename_i i hi
      rw [findPlaying, List.findIdx?_eq_some_iff_getElem] at hi
      obtain ⟨hl, hp, -⟩ := hi
      have hl' : i < P.nv := by simpa using hl
      refine .inr ⟨i, hl', ?_, rfl⟩
      rw [Block.voices_toList_getElem] at hp
      simp only [Voice.plays, Bool.and_eq_true] at hp
      exact hp.1.1
    · exact .inl rfl
  · exact .inl (noteOff_of_not_range hr now b)

/-- Whatever `NOTE_ON` does, it writes one voice or nothing. -/
theorem Block.noteOn_cases (ch : BitVec 8) (note vel : BitVec 16) (now : Tick) (b : Block P) :
    b.noteOn ch note vel now = b ∨ ∃ (c : Fin P.nch) (n : Nat), n ≤ 127 ∧ b.noteOn ch note vel now =
      b.updVoice (pickVoice b.voices.toList) (Voice.noteOn c b.chans[c] n (velocity vel) now) := by
  by_cases hr : ch.toNat < P.nch ∧ note.toNat ≤ 127
  · exact .inr ⟨⟨ch.toNat, hr.1⟩, note.toNat, hr.2, noteOn_of_range hr.1 hr.2 vel now b⟩
  · exact .inl (noteOn_of_not_range hr vel now b)

/-- Whatever `SET_WAVE` does, it writes one channel's wave and harmonic count or nothing. -/
theorem Block.setWave_cases (ch : BitVec 8) (tag count : BitVec 16) (b : Block P) :
    b.setWave ch tag count = b ∨ ∃ c w, b.setWave ch tag count =
      b.updChan c fun e => { e with wave := w, harm := harmonics P count } := by
  unfold Block.setWave; split
  · exact .inr ⟨_, _, rfl⟩
  · exact .inl rfl

/-- Whatever `SET_CHVOL` does, it writes one channel's volume or nothing. -/
theorem Block.setChvol_cases (ch : BitVec 8) (volume : BitVec 16) (b : Block P) :
    b.setChvol ch volume = b ∨ ∃ c, b.setChvol ch volume = b.updChan c fun e => { e with vol := level10 volume } := by
  unfold Block.setChvol; split
  · exact .inr ⟨_, rfl⟩
  · exact .inl rfl

end Sys2Proof.Machine
end

