-- ==== Sys2Proof/Laws/Invariant.lean ====
section
/-! SUPPORT. How each named update of the block keeps it legal: what a proof about a command needs of its own is what it
writes. -/

namespace Sys2Proof.Machine

open Sys2Proof.Laws

variable {P : Params}

/-- A loop over the pool keeps the block legal if it keeps each voice of the pool legal. -/
theorem Block.Inv.mapVoices {b : Block P} (h : b.Inv) {f : Fin P.nv → Voice P → Voice P}
    (hf : ∀ (i : Fin P.nv) (v : Voice P), v.Inv → (f i v).Inv) : (b.mapVoices f).Inv where
  voices := fun ⟨j, hj⟩ => by simpa using hf ⟨j, hj⟩ _ (h.voices ⟨j, hj⟩)
  chans := by simpa using h.chans
  mvol_le := by simpa using h.mvol_le
  mixOut_range := by simpa using h.mixOut_range
  enc := by simpa using h.enc

theorem Block.Inv.updVoice {b : Block P} (h : b.Inv) {i : Nat} {f : Voice P → Voice P}
    (hf : ∀ v : Voice P, v.Inv → (f v).Inv) : (b.updVoice i f).Inv :=
  h.mapVoices fun _ v hv => by
    split
    · exact hf v hv
    · exact hv

theorem Block.Inv.retuneOn {b : Block P} (h : b.Inv) {ch : BitVec 8} {f : Voice P → Voice P}
    (hf : ∀ v : Voice P, v.Inv → (f v).Inv) : (b.retuneOn ch f).Inv := by
  unfold Block.retuneOn
  split
  · exact h.mapVoices fun _ v hv => by
      split
      · exact hf v hv
      · exact hv
  · exact h

theorem Block.Inv.updChan {b : Block P} (h : b.Inv) {c : Fin P.nch} {f : Channel → Channel}
    (hf : ∀ e : Channel, e.Inv P → (f e).Inv P) : (b.updChan c f).Inv where
  voices := by simpa using h.voices
  chans := fun ⟨d, hd⟩ => by
    have := h.chans ⟨d, hd⟩
    simp only [Fin.getElem_fin, Block.updChan_getElem]
    split
    · exact hf _ this
    · exact this
  mvol_le := by simpa using h.mvol_le
  mixOut_range := by simpa using h.mixOut_range
  enc := by simpa using h.enc

theorem Block.Inv.updEnc {b : Block P} (h : b.Inv) {f : Encoder → Encoder} (hf : (f b.enc).Inv P) :
    (b.updEnc f).Inv where
  voices := by simpa using h.voices
  chans := by simpa using h.chans
  mvol_le := by simpa using h.mvol_le
  mixOut_range := by simpa using h.mixOut_range
  enc := by simpa using hf

/-- A push keeps the encoder legal, whatever is pushed (R232). -/
theorem Encoder.Inv.push {e : Encoder} (h : e.Inv P) (x : Int) : (e.push x).Inv P where
  bufCur_range := by rw [Encoder.push_bufCur, toQ15_clampLevel_toInt]; exact clampLevel_range x
  bufPrev_range := h.bufCur_range
  err_range := h.err_range
  phase_lt := h.phase_lt
  vol_le := h.vol_le
  pwmEn_eq := h.pwmEn_eq
  duty_eq := h.duty_eq
  stopped_bit := h.stopped_bit

theorem Block.Inv.emit {b : Block P} (h : b.Inv) {x : Int} (hx : -one ≤ x ∧ x ≤ one) : (b.emit x).Inv where
  voices := by simpa using h.voices
  chans := by simpa using h.chans
  mvol_le := by simpa using h.mvol_le
  mixOut_range := by rw [Block.emit_mixOut, toQ15_toInt_level hx]; exact hx
  enc := by rw [Block.emit_enc]; exact h.enc.push _

end Sys2Proof.Machine
end

