-- ==== Sys2Proof/Laws/Mixer.lean ====
section
/-! SUPPORT. What the mixing operations do (R212 to R214). -/

namespace Sys2Proof.Machine

open Sys2Proof.Laws

variable {P : Params}

/-- The term of voice `i` of a block, with the volume of the voice's own channel. -/
def Block.termOf (now : Tick) (noise : Vector Q15 P.nv) (b : Block P) (i : Fin P.nv) : Option Int :=
  voiceTerm b.voices[i] (b.chans[(b.voices[i]).ch]).vol now noise[i]

/-- The terms of a block are those of its voices, in index order. -/
theorem Block.terms_eq (now : Tick) (noise : Vector Q15 P.nv) (b : Block P) :
    b.terms now noise = (List.ofFn (b.termOf now noise)).filterMap id := by
  rw [Block.terms, Vector.toList_ofFn]
  rfl

/-- A mix depends on the terms and the master volume only. -/
theorem Block.terms_congr {now now' : Tick} {noise noise' : Vector Q15 P.nv} {a b : Block P}
    (h : ∀ i, a.termOf now noise i = b.termOf now' noise' i) : a.terms now noise = b.terms now' noise' := by
  rw [Block.terms_eq, Block.terms_eq, funext h]

theorem Block.mix_congr {now now' : Tick} {noise noise' : Vector Q15 P.nv} {a b : Block P} (hm : a.mvol = b.mvol)
    (h : ∀ i, a.termOf now noise i = b.termOf now' noise' i) : a.mix now noise = b.mix now' noise' := by
  rw [Block.mix, Block.mix, hm, Block.terms_congr h]

theorem Block.mem_terms {now : Tick} {noise : Vector Q15 P.nv} {b : Block P} {x : Int} :
    x ∈ b.terms now noise ↔ ∃ i, b.termOf now noise i = some x := by
  rw [Block.terms_eq]; simp [List.mem_filterMap, List.mem_ofFn]

/-- A voice contributes exactly when it is active, has a frequency and has an amplitude (R212). -/
theorem voiceTerm_isSome {v : Voice P} {vol : BitVec 4} {now : Tick} {noise : Q15} :
    (voiceTerm v vol now noise).isSome = true ↔ v.active = true ∧ v.freq ≠ 0 ∧ env v now ≠ 0 := by
  unfold voiceTerm; split_ifs with h <;> simp_all

theorem voiceTerm_eq_none {v : Voice P} {vol : BitVec 4} {now : Tick} {noise : Q15}
    (h : v.active = false ∨ v.freq = 0 ∨ env v now = 0) : voiceTerm v vol now noise = none := by
  unfold voiceTerm; split_ifs with h' <;> simp_all

@[simp] theorem mixLevel_nil : mixLevel [] = 0 := rfl

theorem mixLevel_range (terms : List Int) : -one ≤ mixLevel terms ∧ mixLevel terms ≤ one := by
  unfold mixLevel; split_ifs
  · simp [one]
  · exact clampLevel_range _

/-- The scaled mix is a level as long as the master volume is within its range (R215). -/
theorem mixScale_range {mvol : BitVec 4} (h : mvol.toNat ≤ 10) (terms : List Int) :
    -one ≤ mixScale mvol terms ∧ mixScale mvol terms ≤ one := by
  obtain ⟨h1, h2⟩ := mixLevel_range terms
  unfold one at *
  constructor
  · exact le_fdiv_of_mul_le (by omega) (by nlinarith)
  · exact fdiv_le_of_le_mul (by omega) (by nlinarith)

end Sys2Proof.Machine
end

