-- ==== Sys2Proof/Laws/Operands.lean ====
section
/-! SUPPORT. What the operand forms do: when a selecting operand selects, and which number a clamped one becomes. -/

namespace Sys2Proof.Laws

open Sys2Proof.Machine

variable {P : Params}

theorem chan?_of_lt {ch : BitVec 8} (h : ch.toNat < P.nch) : chan? P ch = some ⟨ch.toNat, h⟩ := by simp [chan?, h]

theorem chan?_of_not_lt {ch : BitVec 8} (h : ¬ ch.toNat < P.nch) : chan? P ch = none := by simp [chan?, h]

theorem note?_of_le {a : BitVec 16} (h : a.toNat ≤ 127) : note? a = some a.toNat := by simp [note?, h]

theorem note?_of_not_le {a : BitVec 16} (h : ¬ a.toNat ≤ 127) : note? a = none := by simp [note?, h]

/-- The tag selected is the one whose code the field holds (R180). -/
theorem waveTag?_of_le {a : BitVec 16} (h : a.toNat ≤ 4) : ∃ w, waveTag? a = some w ∧ w.code.toNat = a.toNat := by
  unfold waveTag?
  have : a.toNat = 0 ∨ a.toNat = 1 ∨ a.toNat = 2 ∨ a.toNat = 3 ∨ a.toNat = 4 := by omega
  rcases this with h | h | h | h | h <;> rw [h] <;> exact ⟨_, rfl, rfl⟩

theorem waveTag?_of_not_le {a : BitVec 16} (h : ¬ a.toNat ≤ 4) : waveTag? a = none := by
  unfold waveTag?
  split <;> first | rfl | omega

@[simp] theorem velocity_toNat (b : BitVec 16) : (velocity b).toNat = min b.toNat 127 := by
  rw [velocity, BitVec.toNat_ofNat, Nat.mod_eq_of_lt (by omega)]

@[simp] theorem level10_toNat {w : Nat} (a : BitVec w) : (level10 a).toNat = min a.toNat 10 := by
  rw [level10, BitVec.toNat_ofNat, Nat.mod_eq_of_lt (by omega)]

@[simp] theorem harmonics_toNat (b : BitVec 16) : (harmonics P b).toNat = min b.toNat P.hmax := by
  have h := P.valid.hmax_le
  rw [harmonics, BitVec.toNat_ofNat, Nat.mod_eq_of_lt (by omega)]

@[simp] theorem encoderVolume_toNat (a : BitVec 16) : (encoderVolume a).toNat = min a.toNat 32768 := by
  rw [encoderVolume, BitVec.toNat_ofNat, show one.toNat = 32768 from rfl, Nat.mod_eq_of_lt (by omega)]

/-- A note's frequency is its entry of the table (R122): every entry fits 14 bits. -/
@[simp] theorem noteFreq_toNat (n : Nat) : (noteFreq P n).toNat = P.noteRom.getD n 0 := by
  rw [noteFreq, BitVec.toNat_ofNat, Nat.mod_eq_of_lt]
  rw [List.getD_eq_getElem?_getD]
  cases hn : P.noteRom[n]? with
  | none => simp
  | some f => exact P.valid.noteRom_range f (List.mem_of_getElem? hn)

/-- A note's frequency is an entry of the table. -/
theorem noteFreq_mem {n : Nat} (h : n ≤ 127) : (noteFreq P n).toNat ∈ P.noteRom := by
  have hl : n < P.noteRom.length := by have := P.valid.noteRom_length; omega
  rw [noteFreq_toNat, List.getD_eq_getElem _ _ hl]
  exact List.getElem_mem hl

/-- Every entry of the default table is a frequency of R35's range. -/
theorem noteTable_le : ∀ f ∈ noteTable, f ≤ 12544 := by decide +kernel

/-- `NOTE_ROM[0] = 0`, the silence sentinel (R121). -/
theorem noteTable_zero : noteTable.getD 0 0 = 0 := rfl

end Sys2Proof.Laws
end

