-- ==== Sys2Proof/Laws/PerInstr.lean ====
section
/-! SUPPORT. The families of lemmas stated instruction by instruction. -/

namespace Sys2Proof.Laws

/-- The opcode table whole: the 21 rows of the command port and the row of the `PULSE` event (R93, R94). -/
def tableRows : List OpcodeRow := commandRows ++ [⟨"PULSE", pulseListingWord, 0xFF00000000000000⟩]

/-- No row looks at more than `op` and `aux`: the top byte of a word is all a mask keeps. -/
theorem cw_and_top (op aux : BitVec 4) (ch : BitVec 8) (a b c : BitVec 16) :
    cw op aux ch a b c &&& 0xFF00000000000000#64 = cw op aux 0 0 0 0 := by
  apply BitVec.eq_of_getLsbD_eq
  intro i hi
  simp only [cw, BitVec.getLsbD_and, BitVec.getLsbD_append]
  interval_cases i <;> simp

/-- A row covers a command word if it covers the word's `op` and `aux`. -/
theorem covers_cw (r : OpcodeRow) (hr : 0xFF00000000000000#64 &&& r.mask = r.mask) (op aux : BitVec 4) (ch : BitVec 8)
    (a b c : BitVec 16) : r.covers (cw op aux ch a b c) = r.covers (cw op aux 0 0 0 0) := by
  rw [OpcodeRow.covers, OpcodeRow.covers, ← cw_and_top op aux ch a b c, BitVec.and_assoc, hr]

namespace RowMatch

/-- The word of an instruction lies in the row of the opcode table that its mnemonic names. -/
def Statement (i : Instr) : Prop := ∃ r ∈ tableRows, r.mnemonic = i.mnemonic ∧ r.covers (encode i) = true

/-- A row of the table that has the mnemonic and covers the top byte is what is asked for. -/
theorem of_row {i : Instr} (r : OpcodeRow) (hr : r ∈ tableRows) (hm : r.mnemonic = i.mnemonic) {op aux : BitVec 4}
    {ch : BitVec 8} {a b c : BitVec 16} (hi : encode i = cw op aux ch a b c)
    (h : 0xFF00000000000000#64 &&& r.mask = r.mask ∧ r.covers (cw op aux 0 0 0 0) = true) : Statement i :=
  ⟨r, hr, hm, by rw [hi, covers_cw r h.1]; exact h.2⟩

theorem nop : Statement .nop := of_row tableRows[0] (by decide) rfl rfl (by decide)

theorem noteOn (ch note velocity) : Statement (.noteOn ch note velocity) :=
  of_row tableRows[1] (by decide) rfl rfl (by decide)

theorem noteOff (ch note) : Statement (.noteOff ch note) := of_row tableRows[2] (by decide) rfl rfl (by decide)

theorem allOff : Statement .allOff := of_row tableRows[3] (by decide) rfl rfl (by decide)

theorem setMvol (volume) : Statement (.setMvol volume) := of_row tableRows[4] (by decide) rfl rfl (by decide)

theorem setChvol (ch volume) : Statement (.setChvol ch volume) := of_row tableRows[5] (by decide) rfl rfl (by decide)

theorem setAdsr (ch attack decay sustain release) : Statement (.setAdsr ch attack decay sustain release) := by
  refine of_row tableRows[6] (by decide) rfl rfl ⟨by decide, ?_⟩
  revert sustain
  decide

theorem setAttack (ch attack) : Statement (.setAttack ch attack) := of_row tableRows[7] (by decide) rfl rfl (by decide)

theorem setDecay (ch decay) : Statement (.setDecay ch decay) := of_row tableRows[8] (by decide) rfl rfl (by decide)

theorem setSustain (ch sustain) : Statement (.setSustain ch sustain) :=
  of_row tableRows[9] (by decide) rfl rfl (by decide)

theorem setRelease (ch release) : Statement (.setRelease ch release) :=
  of_row tableRows[10] (by decide) rfl rfl (by decide)

theorem setWave (ch tag harmonics) : Statement (.setWave ch tag harmonics) :=
  of_row tableRows[11] (by decide) rfl rfl (by decide)

theorem update : Statement .update := of_row tableRows[12] (by decide) rfl rfl (by decide)

theorem sampleTick : Statement .sampleTick := of_row tableRows[13] (by decide) rfl rfl (by decide)

theorem dsPush (sample) : Statement (.dsPush sample) := of_row tableRows[14] (by decide) rfl rfl (by decide)

theorem dsStart : Statement .dsStart := of_row tableRows[15] (by decide) rfl rfl (by decide)

theorem dsStop : Statement .dsStop := of_row tableRows[16] (by decide) rfl rfl (by decide)

theorem dsSetVol (volume) : Statement (.dsSetVol volume) := of_row tableRows[17] (by decide) rfl rfl (by decide)

theorem reservedF3 : Statement .reservedF3 := of_row tableRows[18] (by decide) rfl rfl (by decide)

theorem reservedF4F7 (low) : Statement (.reservedF4F7 low) := by
  refine of_row tableRows[19] (by decide) rfl rfl ⟨by decide, ?_⟩
  revert low
  decide

theorem reservedF8FF (low) : Statement (.reservedF8FF low) := by
  refine of_row tableRows[20] (by decide) rfl rfl ⟨by decide, ?_⟩
  revert low
  decide

theorem pulse : Statement .pulse := ⟨tableRows[21], by decide, rfl, by decide⟩

end RowMatch

end Sys2Proof.Laws
end

