-- ==== Sys2Proof/Laws/Pool.lean ====
section
/-! SUPPORT. That the voice `NOTE_ON` takes is a voice of the pool (R124, R263). -/

namespace Sys2Proof.Machine

variable {P : Params}

/-- In a pool that is not empty there is an oldest voice. -/
theorem oldestVoice_lt {pool : List (Voice P)} (h : pool ≠ []) : oldestVoice pool < pool.length := by
  obtain ⟨v, hv⟩ := List.exists_mem_of_ne_nil pool h
  obtain ⟨m, hm, hmin⟩ :=
    Finset.exists_min_image pool.toFinset (fun v => v.start.toNat) ⟨v, by simpa using hv⟩
  rw [oldestVoice, List.findIdx_lt_length]
  exact ⟨m, by simpa using hm, by simpa using hmin⟩

theorem pickVoice_lt {pool : List (Voice P)} (h : pool ≠ []) : pickVoice pool < pool.length := by
  unfold pickVoice
  split
  · rename_i i hi
    rw [List.findIdx?_eq_some_iff_getElem] at hi
    exact hi.1
  · exact oldestVoice_lt h

/-- A `NOTE_ON` is never rejected for want of a voice (R263). -/
theorem Block.pickVoice_lt_nv (b : Block P) : pickVoice b.voices.toList < P.nv := by
  have hne : b.voices.toList ≠ [] := fun h => by
    have h0 := congrArg List.length h
    have h1 := P.valid.nv_pos
    simp at h0
    omega
  simpa using pickVoice_lt hne

end Sys2Proof.Machine
end

