-- ==== Sys2Proof/Tests/Slice0.lean ====
section
/-! SUPPORT. Tests. The words are written out from the encodings of R90 and R93; the expected values are those of
spec/95_test_vectors.md (the table is named in each docstring), which the spec derives by hand from its rules. The theorems
called `witness_` show, for each statement with hypotheses, values that meet them. -/

namespace Sys2Proof.Tests

open Sys2Proof Sys2Proof.Machine

-- One theorem at a time: each kernel evaluation in flight holds a thread.
set_option Elab.async false

/-! ### Helpers -/

/-- The outcome is a next state whose parameters are `P` and whose block meets `p`. -/
def leads {P : Params} (o : Host.Outcome State Fault Refusal) (p : Block P → Bool) : Bool :=
  match o with
  | .next t => if h : t.params = P then p (h ▸ t.block) else false
  | .fault _ => false
  | .refused _ => false

/-- The outcome is the next state `s`. -/
def answers (o : Host.Outcome State Fault Refusal) (s : State) : Bool :=
  match o with
  | .next t => t == s
  | .fault _ => false
  | .refused _ => false

/-- The block with the default parameters of R6, which the vectors of the spec are for. -/
abbrev Blk := Block params

/-- A block with parameters `P` after reset but for its first voices. -/
def blockOf {P : Params} (vs : List (Voice P)) : Block P :=
  { Block.reset P with voices := Vector.ofFn fun i => vs.getD i.val (Voice.reset P) }

/-- A block at a tick, every noise input 0, no event pending. -/
def atTick {P : Params} (b : Block P) (now : Tick) : State := { State.resetWith P with block := b, now := now }

/-- A state after reset but for its voices and the tick. -/
def playing (vs : List (Voice params)) (now : Tick) : State := atTick (blockOf vs) now

/-- A state after reset but for the encoder. -/
def encoding (e : Encoder) : State := atTick { Block.reset params with enc := e } 0

/-- `@0 NOTE_ON 0, 69, 127` (program P1). -/
def a4 : Voice params :=
  { Voice.reset params with
    active := true, freq := 440, vel := 127, atk := 50, dec := 100, sus := 7, rel := 200, inc := 0x028DDFB9 }

/-- The same note released at tick 300 (program P1). -/
def a4off : Voice params := { a4 with released := true, relTick := 300 }

/-- A running encoder with the given slots. -/
def running (prev cur : Int) (phase : BitVec 16) : Encoder :=
  { Encoder.reset with bufPrev := toQ15 prev, bufCur := toQ15 cur, phase := phase, run := true, pwmEn := true }

/-- One value on every noise input. -/
def allNoise (n : Int) : Vector Q15 params.nv := Vector.replicate params.nv (toQ15 n)

/-- The defaults with the mixer applying the channel volume (R213) are within the bounds of R6 as well. -/
theorem chvolTable_valid : ({ paramTable with mixAppliesChvol := true } : ParamTable).Valid := by
  obtain ⟨h1, h2, h3, h4, h5, h6, h7, h8, h9, h10, h11, h12, h13, h14, h15, h16, h17, h18⟩ := paramTable_valid
  exact ⟨h1, h2, h3, h4, h5, h6, h7, h8, h9, h10, h11, h12, h13, h14, h15, h16, h17, h18⟩

/-- The other reading of conflict C1. -/
def chvolParams : Params := { paramTable with mixAppliesChvol := true, valid := chvolTable_valid }

/-! ### Decoding: words written out field by field, `op aux ch a b c` (R90, R93; table X1) -/

theorem test_decode_voice_control :
    decode 0b0000_0000_00000000_0000000000000000_0000000000000000_0000000000000000#64 = .nop ∧
    decode 0b0001_0000_00000011_0000000000111100_0000000001111111_0000000000000000#64 = .noteOn 3 60 127 ∧
    decode 0b0001_1111_00000011_0000000000111100_0000000001111111_1111111111111111#64 = .noteOn 3 60 127 ∧
    decode 0b0010_0000_00000011_0000000000111100_0000000000000000_0000000000000000#64 = .noteOff 3 60 ∧
    decode 0b0011_0000_00000000_0000000000000000_0000000000000000_0000000000000000#64 = .allOff ∧
    decode 0b0100_0000_00000000_0000000000001011_0000000000000000_0000000000000000#64 = .setMvol 11 ∧
    decode 0b0101_0000_00010001_0000000000000111_0000000000000000_0000000000000000#64 = .setChvol 17 7 := by decide

theorem test_decode_envelope :
    decode 0b0110_0101_00000000_0000000000001010_0000000000010100_0000000100101100#64 = .setAdsr 0 10 20 5 300 ∧
    decode 0b0110_1100_00000010_0000000000000000_0000000000000000_0000000000000000#64 = .setAdsr 2 0 0 12 0 ∧
    decode 0b0111_0000_00000000_0000000011001000_0000000000000000_0000000000000000#64 = .setAttack 0 200 ∧
    decode 0b1000_0000_00000001_0000001111101000_0000000000000000_0000000000000000#64 = .setDecay 1 1000 ∧
    decode 0b1001_0000_00000000_0000000000001100_0000000000000000_0000000000000000#64 = .setSustain 0 12 ∧
    decode 0b1010_0000_00010000_1111111111111111_0000000000000000_0000000000000000#64 = .setRelease 16 65535 ∧
    decode 0b1100_0000_00000000_0000000000000000_0000000000000000_0000000000000000#64 = .update := by decide

theorem test_decode_oscillator_mixer :
    decode 0b1011_0000_00000010_0000000000000010_0000000000000011_0000000000000000#64 = .setWave 2 2 3 ∧
    decode 0b1101_0000_00000000_0000000000000000_0000000000000000_0000000000000000#64 = .sampleTick := by decide

theorem test_decode_encoder :
    decode 0b1110_0000_00000000_0000000000000000_0000000000000000_1000000000000000#64 = .dsPush 32768 ∧
    decode 0b1110_0000_00000000_0000000000000000_1111111111111110_0111100101100000#64
      = .dsPush (BitVec.ofInt 32 (-100000)) ∧
    decode 0b1111_0000_00000000_0000000000000000_0000000000000000_0000000000000000#64 = .dsStart ∧
    decode 0b1111_0001_00000000_0000000000000000_0000000000000000_0000000000000000#64 = .dsStop ∧
    decode 0b1111_0010_00000000_0100000000000000_0000000000000000_0000000000000000#64 = .dsSetVol 16384 := by decide

theorem test_decode_reserved :
    decode 0b1111_0011_00000000_0000000000000000_0000000000000000_0000000000000000#64 = .reservedF3 ∧
    decode 0b1111_0100_00000000_0000000000000000_0000000000000000_0000000000000000#64 = .reservedF4F7 0 ∧
    decode 0b1111_0111_00000000_0000000000000000_0000000000000000_0000000000000000#64 = .reservedF4F7 3 ∧
    decode 0b1111_1000_00000000_0000000000000000_0000000000000000_0000000000000000#64 = .reservedF8FF 0 ∧
    decode 0xFFFFFFFFFFFFFFFF#64 = .reservedF8FF 7 := by decide

/-- R94: the listing notation of `PULSE`, told apart from the reserved word only by the listing reader. -/
theorem test_decode_pulse :
    decodeTableWord 64 0xFF00000000000000 = some .pulse ∧ decode 0xFF00000000000000#64 = .reservedF8FF 7 ∧
    decodeTableWord 64 0xFF00000000000001 = some (.reservedF8FF 7) ∧ decodeTableWord 72 0 = none := by decide

theorem test_encode :
    encode (.setAdsr 0 10 20 5 300) = 0x6500000A0014012C#64 ∧
    encode (.dsPush (BitVec.ofInt 32 (-32768))) = 0xE0000000FFFF8000#64 ∧
    encode (.setWave 2 2 3) = 0xB002000200030000#64 ∧ encode (.reservedF4F7 1) = 0xF500000000000000#64 := by decide

/-- The bytes' places of table X1's rows, in the table's numbering. -/
theorem test_decode_table_word :
    decodeTableWord 64 0x5003000700000000 = some (.setChvol 3 7) ∧
    decodeTableWord 64 0xF200400000000000 = some (.dsSetVol 16384) := by decide

/-! ### WellFormed: one ill-formed term for each check -/

theorem test_wf_refuses_pulse : Instr.pulse.wf = false ∧ (Instr.noteOn 255 65535 65535).wf = true := by decide

theorem test_selectors_refuse :
    (Instr.noteOn 17 60 100).selectorsInRange params = false ∧ (Instr.noteOn 0 128 100).selectorsInRange params = false ∧
    (Instr.noteOff 17 60).selectorsInRange params = false ∧ (Instr.noteOff 0 128).selectorsInRange params = false ∧
    (Instr.setChvol 17 7).selectorsInRange params = false ∧ (Instr.setAdsr 17 0 0 0 0).selectorsInRange params = false ∧
    (Instr.setAttack 17 0).selectorsInRange params = false ∧ (Instr.setDecay 17 0).selectorsInRange params = false ∧
    (Instr.setSustain 17 0).selectorsInRange params = false ∧ (Instr.setRelease 17 0).selectorsInRange params = false ∧
    (Instr.setWave 17 0 0).selectorsInRange params = false ∧ (Instr.setWave 0 5 0).selectorsInRange params = false ∧
    (Instr.noteOn 16 127 65535).selectorsInRange params = true := by decide

theorem test_scalers_refuse :
    (Instr.noteOn 0 60 128).scalersInRange params = false ∧ (Instr.setMvol 11).scalersInRange params = false ∧
    (Instr.setChvol 0 11).scalersInRange params = false ∧ (Instr.setAdsr 0 0 0 11 0).scalersInRange params = false ∧
    (Instr.setSustain 0 11).scalersInRange params = false ∧ (Instr.setWave 0 0 16).scalersInRange params = false ∧
    (Instr.dsPush 32769).scalersInRange params = false ∧ (Instr.dsSetVol 32769).scalersInRange params = false ∧
    (Instr.noteOn 0 60 127).scalersInRange params = true := by decide

/-! ### The tables -/

/-- S3, table V1. -/
theorem test_note_rom :
    params.noteRom.getD 0 9 = 0 ∧ params.noteRom.getD 69 0 = 440 ∧ params.noteRom.getD 57 0 = 220 ∧
    params.noteRom.getD 81 0 = 880 ∧ params.noteRom.getD 60 0 = 262 ∧ params.noteRom.getD 21 0 = 28 ∧
    params.noteRom.getD 127 0 = 12544 := by decide +kernel

/-- Table V1. -/
theorem test_phase_increment :
    phaseInc params 9 = 0x000D5FEB ∧ phaseInc params 440 = 0x028DDFB9 ∧ phaseInc params 587 = 0x036853C7 ∧
    phaseInc params 12544 = 0x48D159E2 := by decide +kernel

/-- R182: the second half of the period is the first half negated, and each half is its own mirror image. -/
theorem test_sine_rom_symmetry :
    (∀ i < 128, params.sineRom.getD (i + 128) 7 = -params.sineRom.getD i 7) ∧
    (∀ i < 127, params.sineRom.getD (128 - (i + 1)) 7 = params.sineRom.getD (i + 1) 7) := by decide +kernel

/-! ### Waveforms -/

/-- Table O1. -/
theorem test_plain_waveforms :
    (sine params 0x20000000, square 0x20000000, saw 0x20000000, tri 0x20000000) = (23170, 32768, -24576, -16384) ∧
    (sine params 0x7FFFFFFF, square 0x7FFFFFFF, saw 0x7FFFFFFF, tri 0x7FFFFFFF) = (804, 32768, -1, 32767) ∧
    (sine params 0x80000000, square 0x80000000, saw 0x80000000, tri 0x80000000) = (0, 0, 0, 32768) ∧
    (sine params 0xFFFFFFFF, square 0xFFFFFFFF, saw 0xFFFFFFFF, tri 0xFFFFFFFF) = (-804, -32768, 32767, -32767) := by
  decide +kernel

/-- Table O2. -/
theorem test_harmonics :
    harm params .sine 3 0x40000000 = 7281 ∧ harm params .square 3 0x20000000 = 15759 ∧
    harm params .saw 4 0x10000000 = 10602 ∧ harm params .triangle 2 0x40000000 = 16384 ∧
    harm params .triangle 5 0x20000000 = 5251 ∧ harm params .sine 15 0x08000000 = 3828 := by decide +kernel

/-! ### Envelope -/

/-- Table E1, row B, and table E2, row A with base 16513. -/
theorem test_env_stages :
    env a4 25 = 16384 ∧ env a4 49 = 32112 ∧ env a4 50 = 32768 ∧ env a4 51 = 32670 ∧ env a4 149 = 23036 ∧
    env a4 150 = 22937 ∧ env { a4off with vel := 64 } 301 = 11501 ∧ env { a4off with vel := 64 } 499 = 57 ∧
    env { a4off with vel := 64 } 500 = 0 := by decide

/-- Table E3: across the rollover of the tick. -/
theorem test_env_rollover :
    env { a4 with start := 0xFFFFFFF0 } 0xFFFFFFFF = 9830 ∧ env { a4 with start := 0xFFFFFFF0 } 0 = 10485 ∧
    env { a4 with start := 0xFFFFFFF0 } 0x23 = 32670 ∧ env { a4 with start := 0xFFFFFFF0 } 0xFFFFFFEF = 22937 := by decide

/-! ### One step of each instruction -/

/-- R120, R95. -/
theorem test_nop_and_reserved :
    exec .nop (playing [a4] 7) = .next (playing [a4] 7) ∧ exec .reservedF3 (playing [a4] 7) = .next (playing [a4] 7) ∧
    exec (.reservedF4F7 2) (playing [a4] 7) = .next (playing [a4] 7) ∧
    exec (.reservedF8FF 7) (playing [a4] 7) = .next (playing [a4] 7) := ⟨rfl, rfl, rfl, rfl⟩

/-- S2, S4. -/
theorem test_note_on_reset : leads (exec (.noteOn 0 69 64) State.reset) (fun t : Blk =>
    t.voices[0] = { a4 with vel := 64 } && t.activeCount == 1 && t.chActive 0) = true := by decide +kernel

/-- Table V2 and S8: a full pool, the smallest `START` is in `V[5]`; note 1 with velocity 300. -/
theorem test_note_on_steals : leads (exec (.noteOn 5 1 300)
    (playing [{ a4 with start := 9 }, { a4 with start := 9 }, { a4 with start := 8 }, { a4 with start := 8 },
      { a4 with start := 0xFFFFFFFF }, { a4off with start := 7 }, { a4 with start := 7 }, { a4 with start := 8 }] 20))
    (fun t : Blk => (t.voices[5]).freq == 9 && (t.voices[5]).vel == 127 && !(t.voices[5]).released &&
      (t.voices[5]).relTick == 300 && (t.voices[6]).start == 7 && t.activeCount == 8) = true := by decide +kernel

/-- Table V3, step 3: only the lowest of two equal voices is released. -/
theorem test_note_off_first_match : leads (exec (.noteOff 0 69) (playing [a4, a4] 300))
    (fun t : Blk => t.voices[0] = a4off && t.voices[1] = a4) = true := by decide +kernel

/-- Table V3, step 6: the wrong channel. -/
theorem test_note_off_wrong_channel :
    answers (exec (.noteOff 1 69) (playing [a4] 300)) (playing [a4] 300) = true := by decide +kernel

/-- Table V3, step 9. -/
theorem test_all_off : leads (exec .allOff (playing [a4, a4off] 0))
    (fun t : Blk => t.activeCount == 0 && (t.voices[1]).released) = true := by decide +kernel

/-- Table V2. -/
theorem test_set_mvol : leads (exec (.setMvol 11) State.reset) (fun t : Blk => t.mvol == 10) = true ∧
    leads (exec (.setMvol 3) State.reset) (fun t : Blk => t.mvol == 3) = true := by decide +kernel

/-- Table V2. -/
theorem test_set_chvol : leads (exec (.setChvol 3 4) State.reset) (fun t : Blk =>
    (t.chans[3]).vol == 4 && (t.chans[2]).vol == 10) = true ∧
    answers (exec (.setChvol 17 7) State.reset) State.reset = true := by decide +kernel

/-- Table E4, all durations; a releasing voice is retuned too, a voice of another channel is not. -/
theorem test_set_adsr : leads (exec (.setAdsr 0 10 20 12 300) (playing [a4, a4off, { a4 with ch := ⟨1, by decide⟩ }] 0)) (fun t : Blk =>
    t.voices[0] = { a4 with atk := 10, dec := 20, sus := 10, rel := 300 } && (t.voices[1]).rel == 300 &&
    (t.voices[2]).rel == 200 && (t.voices[3]).rel == 0) = true := by decide +kernel

/-- Table E4: the level jumps from 27853. -/
theorem test_set_attack : leads (exec (.setAttack 0 200) (playing [a4] 100)) (fun t : Blk =>
    env t.voices[0] 100 == 16384) = true := by decide +kernel

/-- Table E4. -/
theorem test_set_decay : leads (exec (.setDecay 0 0) (playing [a4] 0)) (fun t : Blk =>
    env t.voices[0] 49 == 32112 && env t.voices[0] 50 == 22937) = true := by decide +kernel

/-- Table E4. -/
theorem test_set_sustain : leads (exec (.setSustain 0 0) (playing [a4] 0)) (fun t : Blk =>
    env t.voices[0] 100 == 16384 && env t.voices[0] 149 == 328 && env t.voices[0] 150 == 0) = true := by decide +kernel

theorem test_set_release : leads (exec (.setRelease 0 65535) (playing [a4] 0)) (fun t : Blk =>
    t.voices[0] = { a4 with rel := 65535 }) = true := by decide +kernel

/-- Table X1, the harmonic count clamped; table O3, the sounding voice keeps its waveform. -/
theorem test_set_wave : leads (exec (.setWave 0 3 99) (playing [a4] 0)) (fun t : Blk =>
    (t.chans[0]).wave == .triangle && (t.chans[0]).harm == 15 && t.voices[0] = a4) = true := by decide +kernel

theorem test_set_wave_refuses_tag : answers (exec (.setWave 0 5 0) State.reset) State.reset = true := by
  decide +kernel

/-- P1, the retirement edge of table E4. -/
theorem test_update : leads (exec .update (playing [a4off] 499)) (fun t : Blk => (t.voices[0]).active) = true ∧
    leads (exec .update (playing [a4off] 500)) (fun t : Blk => t.voices[0] = { a4off with active := false }) = true := by
  decide +kernel

/-- Table M1, row "one sine". -/
theorem test_sample_tick_sine : leads (exec .sampleTick (playing [a4] 25)) (fun t : Blk =>
    t.mixOut.toInt == 804 && t.enc.bufCur.toInt == 804 && t.enc.bufPrev.toInt == 0 &&
    (t.voices[0]).phase == 0x028DDFB9) = true := by decide +kernel

/-- Table M1, row "negative floor", and with it rows "zero-amplitude voice left out" and "`FREQ = 0` voice left out". -/
theorem test_sample_tick_negative : leads (exec .sampleTick
    (atTick { blockOf [{ a4 with vel := 1, wave := .saw }, { a4 with start := 500 }, { a4 with freq := 0 }] with mvol := 3 }
      500))
    (fun t : Blk => t.mixOut.toInt == -54) = true := by decide +kernel

/-- Table M1, row "one sine", under the other parameter of R213: the voice is on channel 1, whose volume is 4, and its term
is `fdiv(804 * 4, 10) = 321`. -/
theorem test_sample_tick_channel_volume :
    let v : Voice chvolParams :=
      { Voice.reset chvolParams with
        active := true, ch := ⟨1, by decide⟩, freq := 440, vel := 127, atk := 50, sus := 7, rel := 200,
        inc := 0x028DDFB9 }
    leads (exec .sampleTick (atTick ((blockOf [v]).setChvol 1 4) 25)) (fun t : Block chvolParams =>
      t.mixOut.toInt == 321) = true := by decide +kernel

/-- Table M1, row "dilution". -/
theorem test_mix_dilution :
    (blockOf [{ a4 with wave := .square, phase := 0x028DDFB9 }, { a4 with vel := 13, phase := 0x028DDFB9 }]).mix 200
      (allNoise 0) = 11526 := by decide +kernel

/-- Table M1, the rows on noise. -/
theorem test_mix_noise :
    (blockOf [{ a4 with wave := .noise }]).mix 200 (allNoise (-12345)) = -8642 ∧
    (blockOf [{ a4 with wave := .noise }]).mix 200 (allNoise 40000) = 22937 ∧
    (blockOf [{ a4 with wave := .noise }]).mix 200 (allNoise (-40000)) = -22937 := by
  decide +kernel

/-- Table X1, and the rotation of R232. -/
theorem test_ds_push : leads (exec (.dsPush 100000) (encoding (running 1 2 0))) (fun t : Blk =>
    t.enc.bufCur.toInt == 32768 && t.enc.bufPrev.toInt == 2) = true ∧
    leads (exec (.dsPush (BitVec.ofInt 32 (-100000))) State.reset) (fun t : Blk => t.enc.bufCur.toInt == -32768) = true := by
  decide +kernel

/-- Table D6, steps 3, 5 and 9: `DS_ERR` is kept. -/
theorem test_ds_start : leads (exec .dsStart (encoding { Encoder.reset with phase := 3, err := toQ15 16384 })) (fun t : Blk =>
    t.enc.run && t.enc.pwmEn && t.enc.phase == 0 && t.enc.err.toInt == 16384) = true ∧
    leads (exec .dsStart (encoding (running 0 0 3))) (fun t : Blk => t.enc.phase == 3) = true := by
  decide +kernel

/-- Table D6, step 6. -/
theorem test_ds_stop : leads (exec .dsStop (encoding { running 1 2 3 with bit := true, err := 9 }))
    (fun t : Blk => t.enc == { Encoder.reset with bufPrev := 1, bufCur := 2, phase := 3, err := 9 }) = true := by decide +kernel

/-- Table D5 (b). -/
theorem test_ds_set_vol : leads (exec (.dsSetVol 0xFFFF) State.reset) (fun t : Blk => t.enc.vol == 32768) = true ∧
    leads (exec (.dsSetVol 16384) State.reset) (fun t : Blk => t.enc.vol == 16384) = true := by decide +kernel

/-- Table D3, pulse 3, and table D6, step 1: a pulse while stopped. -/
theorem test_pulse : leads (exec .pulse (encoding { running 0 32768 2 with err := toQ15 1489 }))
    (fun t : Blk => t.enc.bit && t.enc.err.toInt == -28301 && t.enc.phase == 3) = true ∧
    leads (exec .pulse State.reset) (fun t : Blk => t.enc.bit == false && t.enc.phase == 0) = true := by decide +kernel

/-- Table D4, `ph = 1`, and the wrap of the phase counter (table D3, pulse 22). -/
theorem test_pulse_falling : leads (exec .pulse (encoding { running 32768 (-32768) 1 with vol := 16384, err := toQ15 (-16384) }))
    (fun t : Blk => !t.enc.bit && t.enc.err.toInt == 31278) = true ∧
    leads (exec .pulse (encoding (running 0 32768 21))) (fun t : Blk => t.enc.phase == 0) = true := by
  decide +kernel

/-- R246: the duty of a 1 bit is `PWM_PERIOD`, whatever it is; table D6, step 10. -/
theorem test_pulse_duty : leads (exec .pulse (encoding { running 16384 0 0 with err := toQ15 16384 }))
    (fun t : Blk => t.enc.bit && t.enc.err.toInt == 0) = true ∧
    ((running 16384 0 0).pulse params).pwmDuty = if (running 16384 0 0).nextBit params then Config.pwmPeriod else 0 :=
  ⟨by decide +kernel, rfl⟩

/-- R262: with `withFetchWord` the next step runs the command or the pulse. -/
theorem test_with_fetch_word :
    leads (step (State.reset.withFetchWord 64 0x4000000500000000)) (fun t : Blk => t.mvol == 5) = true ∧
    leads (step ((encoding (running 0 0 0)).withFetchWord 64 0xFF00000000000000))
      (fun t : Blk => t.enc.err.toInt == 32768 && t.enc.phase == 1) = true := by decide +kernel

/-- R44 to R46: the status ports of program P1 at tick 400. -/
theorem test_outputs : (let o := (blockOf [a4off]).outputs 400
    o.activeCount == 1 && o.chActive[0] && !o.chActive[1] && (o.envOut[0]).toInt == 11468 &&
      (o.envOut[1]).toInt == 0) = true := by decide +kernel

/-- R32, R50, R77, R310: the events of one instant. -/
theorem test_port_events :
    (⟨false, true, 7, 9, allNoise 1, true, false⟩ : Ports params).events = [.pulse, .cmd 7 9 (allNoise 1)] ∧
    (⟨false, true, 7, 9, allNoise 1, true, true⟩ : Ports params).events = [.pulse] ∧
    (⟨true, true, 7, 9, allNoise 1, true, false⟩ : Ports params).events = [.reset] := by decide

/-- R100: the pseudo-commands. -/
theorem test_pseudo_commands :
    pulsesListing (P := params) 2 = [.pulse, .pulse] ∧
    silenceListing 5 (allNoise 0) = [.cmd 0xE000000000000000#64 5 (allNoise 0)] ∧
    dsPush2Listing 16384 5 (allNoise 0) =
      [.cmd 0xE000000000004000#64 5 (allNoise 0), .cmd 0xE000000000004000#64 5 (allNoise 0)] ∧
    ticksListing 5 [allNoise 1] = [.cmd 0xD000000000000000#64 5 (allNoise 1)] := by decide

/-! ### Witnesses -/

/-- The encoder of `running` is legal while the slots and the phase are in range. -/
theorem running_inv {prev cur : Int} {phase : BitVec 16} (hp : -one ≤ (toQ15 prev).toInt ∧ (toQ15 prev).toInt ≤ one)
    (hc : -one ≤ (toQ15 cur).toInt ∧ (toQ15 cur).toInt ≤ one) (h : phase.toNat < params.osr) :
    (running prev cur phase).Inv params where
  bufCur_range := hc
  bufPrev_range := hp
  err_range := (by decide : -32767 ≤ (0 : Q15).toInt ∧ (0 : Q15).toInt ≤ 32768)
  phase_lt := h
  vol_le := (by decide : ((32768 : BitVec 16).toNat : Int) ≤ one)
  pwmEn_eq := rfl
  duty_eq := rfl
  stopped_bit := nofun

/-- A legal block that is not the one after reset: one voice sounding, one releasing, the encoder running at its last phase. -/
def legalBlock : Block params :=
  { blockOf [a4, a4off] with enc := running (-32768) 32768 21, mixOut := toQ15 (-32768) }

/-- The same at a tick. -/
def legal : State := atTick legalBlock 300

theorem witness_legalBlock : legalBlock.Inv where
  voices := by
    have h : ∀ i : Fin params.nv, ((legalBlock.voices[i]).freq.toNat = 0 ∨ (legalBlock.voices[i]).freq.toNat = 440) ∧
        ((legalBlock.voices[i]).active = true → (legalBlock.voices[i]).freq.toNat = 440) ∧
        (legalBlock.voices[i]).sus.toNat ≤ 10 ∧ (legalBlock.voices[i]).harm.toNat ≤ params.hmax ∧
        ((legalBlock.voices[i]).active = true →
          (legalBlock.voices[i]).inc = phaseInc params (legalBlock.voices[i]).freq) := by
      decide +kernel
    have hm : 440 ∈ params.noteRom := by decide +kernel
    refine fun i => ⟨fun top ht => ?_, fun ha => (h i).2.1 ha ▸ hm, (h i).2.2.1, (h i).2.2.2.1, (h i).2.2.2.2⟩
    have := ht 440 hm
    have := (h i).1
    omega
  chans := by
    have h : ∀ c : Fin params.nch,
        (legalBlock.chans[c]).vol.toNat ≤ 10 ∧ (legalBlock.chans[c]).harm.toNat ≤ params.hmax := by
      decide +kernel
    exact fun c => ⟨(h c).1, (h c).2⟩
  mvol_le := by decide
  mixOut_range := by decide
  enc := running_inv (by decide) (by decide) (by decide)

theorem witness_legal : legal.Inv := witness_legalBlock

theorem witness_DecodeEncodeRoundTrip : (Instr.dsPush 0xFFFF8000).wf = true := rfl

theorem witness_NopAndReservedWordsDoNothing :
    (0x0FFFFFFFFFFFFFFF : Word).op.toNat = 0 ∧
    ((0xF300000000000000 : Word).op.toNat = 0xF ∧ 3 ≤ (0xF300000000000000 : Word).aux.toNat) ∧
    ¬ ((0xF2FFFFFFFFFFFFFF : Word).op.toNat = 0xF ∧ 3 ≤ (0xF2FFFFFFFFFFFFFF : Word).aux.toNat) := by decide

theorem witness_StepExecutesDecodedCommand :
    ({ legal with pending := [.cmd 0xC000000000000000 9 (allNoise 1), .pulse] } : State).pending =
      .cmd 0xC000000000000000 9 (allNoise 1) :: [.pulse] ∧ decode 0xC000000000000000 = .update := ⟨rfl, by decide⟩

theorem witness_StepAppliesPulseOrWaits :
    ({ legal with pending := [.pulse] } : State).pending = .pulse :: [] ∧ legal.pending = [] := ⟨rfl, rfl⟩

theorem witness_PulseComesBeforeCommand :
    let p : Ports legal.params := ⟨false, true, 0xE000000000004000, 9, allNoise 1, true, false⟩
    legal.pending = [] ∧ p.pulseStb = true ∧ p.cmdValid = true ∧ p.cmdReady = true := ⟨rfl, rfl, rfl, rfl⟩

theorem witness_ResetEventResetsEverything :
    ({ legal with pending := [.reset] } : State).pending = .reset :: [] ∧
    (⟨true, true, 0, 9, allNoise 1, true, false⟩ : Ports params).rst = true := ⟨rfl, rfl⟩

theorem witness_StepKeepsLegalState : legal.Inv := witness_legal

/-- Two blocks that are not equal and that no port tells apart. -/
theorem witness_UnreadVoiceFieldsAreUnobservable :
    let a := blockOf [a4, { a4 with active := false }]
    let b := blockOf [{ a4 with relTick := 77 }, Voice.reset params]
    a ≠ b ∧ a.Alike b := by
  refine ⟨by decide +kernel, ⟨⟨rfl, rfl, rfl, rfl⟩, ?_⟩⟩
  simp only [Voice.Alike]
  decide +kernel

theorem witness_VoiceTransitionsAreTheListedOnes :
    (leads (exec (.noteOn 0 69 127) State.reset) fun t : Blk => (t.voices[0]).sounding) = true ∧
    (leads (exec (.noteOff 0 69) (playing [a4] 300)) fun t : Blk => (t.voices[0]).releasing) = true ∧
    (leads (exec .update (playing [a4off] 500)) fun t : Blk => !(t.voices[0]).active && (t.voices[0]).released) = true := by
  decide +kernel

theorem witness_RegistersHaveOnlyTheirWriters :
    (Instr.setMvol 3).mnemonic ∈ ["NOP", "SET_MVOL", "SET_CHVOL", "SET_WAVE", "DS_PUSH", "DS_START", "DS_STOP",
      "DS_SET_VOL", "RESERVED_F3", "RESERVED_F4_F7", "RESERVED_F8_FF", "PULSE"] ∧
    Instr.allOff.mnemonic ∉ ["SET_CHVOL", "SET_WAVE"] ∧ Instr.allOff.mnemonic ≠ "SET_MVOL" ∧
    Instr.update.mnemonic ≠ "SAMPLE_TICK" ∧ Instr.update.mnemonic ∉ ["DS_PUSH", "SAMPLE_TICK"] ∧
    Instr.dsStart.mnemonic ≠ "PULSE" ∧ (Instr.dsStart.mnemonic = "DS_START" → legal.block.enc.run = true) ∧
    Instr.pulse.mnemonic ≠ "DS_SET_VOL" ∧ Instr.pulse.mnemonic ∉ ["DS_START", "DS_STOP"] ∧
    Instr.dsStart.mnemonic ∉ ["PULSE", "DS_STOP"] := by decide

theorem witness_OnlyFourCommandsReadNow :
    (Instr.setAdsr 0 1 2 3 4).mnemonic ∉ ["NOTE_ON", "NOTE_OFF", "UPDATE", "SAMPLE_TICK"] := by decide

/-- A noise voice whose value is the same and a sine voice whose value differs. -/
theorem witness_NoiseIsReadOnlyForNoiseVoices :
    let b := blockOf [{ a4 with wave := .noise }, a4]
    let noise := (allNoise 9).set 0 (toQ15 5)
    noise ≠ allNoise 5 ∧ ∀ j : Fin params.nv, Instr.sampleTick = .sampleTick → (b.voices[j]).active = true →
      (b.voices[j]).wave = .noise → noise[j] = (allNoise 5)[j] := by decide +kernel

theorem witness_SelectorsIgnoredScalersClamped :
    (Instr.noteOn 17 0 0).selectorsInRange params = false ∧ (Instr.setWave 16 5 0).selectorsInRange params = false := by decide

theorem witness_IdempotentCommands :
    Instr.update.mnemonic ∈ ["ALL_OFF", "DS_STOP", "SET_MVOL", "SET_CHVOL", "SET_WAVE", "DS_SET_VOL", "SET_ADSR",
      "SET_ATTACK", "SET_DECAY", "SET_SUSTAIN", "SET_RELEASE", "UPDATE"] := by decide

theorem witness_NoteOnStartsOneVoice :
    (16#8).toNat < params.nch ∧ (127#16).toNat ≤ 127 ∧ ¬ ((17#8).toNat < params.nch ∧ (127#16).toNat ≤ 127) ∧
    ¬ ((16#8).toNat < params.nch ∧ (128#16).toNat ≤ 127) := by decide

theorem witness_PickVoiceTakesFreeElseOldest :
    [a4, Voice.reset params, a4] ≠ [] ∧ (∃ v ∈ [a4, Voice.reset params, a4], v.active = false) ∧
    (∀ v ∈ [{ a4 with start := 9 }, a4, a4], v.active = true) := by decide

theorem witness_PoolNeverExceedsItsSize : (16#8).toNat < params.nch ∧ (127#16).toNat ≤ 127 := by decide

theorem witness_NoteOffReleasesLowestMatch :
    let plays := fun (b : Block params) (ch : BitVec 8) (note : BitVec 16) (i : Fin params.nv) =>
      (b.voices[i]).active = true ∧ (b.voices[i]).released = false ∧ (b.voices[i]).ch.val = ch.toNat ∧
        (b.voices[i]).freq.toNat = params.noteRom.getD note.toNat 0
    (plays (blockOf [a4off, a4, a4]) 0 69 ⟨1, by decide⟩ ∧
      ∀ j : Fin params.nv, j < ⟨1, by decide⟩ → ¬ plays (blockOf [a4off, a4, a4]) 0 69 j) ∧
    (∀ i : Fin params.nv, ¬ plays (blockOf [a4off, a4, a4]) 1 69 i) ∧
    ¬ ((0#8).toNat < params.nch ∧ (128#16).toNat ≤ 127) := by decide +kernel

theorem witness_AliasedNotesReleaseAlike :
    (1#16).toNat ≤ 127 ∧ (2#16).toNat ≤ 127 ∧
    params.noteRom.getD (1#16).toNat 0 = params.noteRom.getD (2#16).toNat 0 := by decide +kernel

theorem witness_VolumeSettersClampToTen : (16#8).toNat < params.nch ∧ ¬ (17#8).toNat < params.nch := by decide

theorem witness_ChannelVolumeActsOnlyByParameter :
    params.mixAppliesChvol = false ∧ chvolParams.mixAppliesChvol = true := ⟨rfl, rfl⟩

/-- Each stage at its first or last tick. -/
theorem witness_EnvelopeFormulaPerStage :
    (a4off.released = true ∧ ((499 : Int) - 300) % 2 ^ 32 < a4off.rel.toNat) ∧
    (a4off.released = true ∧ (a4off.rel.toNat : Int) ≤ ((500 : Int) - 300) % 2 ^ 32) ∧
    (a4.released = false ∧ ((49 : Int) - 0) % 2 ^ 32 < a4.atk.toNat) ∧
    (a4.released = false ∧ (a4.atk.toNat : Int) ≤ ((50 : Int) - 0) % 2 ^ 32 ∧
      ((50 : Int) - 0) % 2 ^ 32 < a4.atk.toNat + a4.dec.toNat) ∧
    (a4.released = false ∧ (a4.atk.toNat : Int) + a4.dec.toNat ≤ ((150 : Int) - 0) % 2 ^ 32) := by decide

theorem witness_EnvelopeLevelsAtStageBounds :
    (a4.released = false ∧ a4.el 0 = 0 ∧ 0 < a4.atk.toNat) ∧
    (a4.released = false ∧ a4.el 50 = a4.atk.toNat ∧ 0 < a4.dec.toNat) ∧
    (a4.released = false ∧ a4.el 50 = a4.atk.toNat ∧ ({ a4 with dec := 0 } : Voice params).dec.toNat = 0) ∧
    (a4off.released = true ∧ a4off.er 300 = 0 ∧ 0 < a4off.rel.toNat) ∧
    (a4off.released = true ∧ a4off.rel.toNat ≤ a4off.er 500) := by decide

theorem witness_EnvelopeStaysInRange :
    ({ a4 with sus := 10 } : Voice params).sus.toNat ≤ 10 ∧ a4.stage 50 = .decay ∧ a4off.stage 499 = .release ∧
    ({ a4 with vel := 0 } : Voice params).vel.toNat = 0 ∧ ({ a4 with sus := 0 } : Voice params).sus.toNat = 0 := by decide

theorem witness_EnvelopeIsMonotoneInEachStage :
    a4.sus.toNat ≤ 10 ∧ (a4.stage 0 = a4.stage 49 ∧ a4.stage 0 = .attack ∧ a4.el 0 ≤ a4.el 49) ∧
    (a4.stage 50 = a4.stage 149 ∧ a4.stage 50 = .decay ∧ a4.el 50 ≤ a4.el 149) ∧
    (a4off.stage 300 = a4off.stage 499 ∧ a4off.stage 300 = .release ∧ a4off.er 300 ≤ a4off.er 499) := by decide

theorem witness_SetAdsrRetunesActiveVoices : (16#8).toNat < params.nch ∧ ¬ (17#8).toNat < params.nch := by decide

/-- A voice on the channel, active though released, and one that is not on it. -/
theorem witness_SingleSettersRetuneActiveVoices :
    let s := blockOf [{ a4off with ch := ⟨16, by decide⟩ }, a4]
    (16#8).toNat < params.nch ∧ ((s.voices[0]).active = true ∧ (s.voices[0]).ch.val = (16#8).toNat) ∧
    ¬ ((s.voices[1]).active = true ∧ (s.voices[1]).ch.val = (16#8).toNat) ∧ ¬ (17#8).toNat < params.nch := by
  decide +kernel

theorem witness_SettersForgetIdleChannels :
    (playing [a4] 0).block.chActive (16#8).toNat = false ∧ (playing [a4] 0).block.chActive (255#8).toNat = false := by
  decide +kernel

theorem witness_RetirementIsInaudible : ((blockOf [a4off]).voices[0]).finished 500 = true := by
  decide +kernel

theorem witness_PlainWaveformValues :
    ((0#32).toNat = 0 ∨ (0#32).toNat = 2 ^ 31) ∧ ((0x80000000#32).toNat = 0 ∨ (0x80000000#32).toNat = 2 ^ 31) ∧
    (0 < (1#32).toNat ∧ (1#32).toNat < 2 ^ 31) ∧ 2 ^ 31 < (0x80000001#32).toNat ∧ (0x7FFFFFFF#32).toNat < 2 ^ 31 ∧
    2 ^ 31 ≤ (0x80000000#32).toNat := by decide

theorem witness_VoiceSampleFollowsItsWave :
    ({ a4 with wave := .noise } : Voice params).wave = .noise ∧
    (({ a4 with wave := .triangle, harm := 1 } : Voice params).wave ≠ .noise ∧
      ({ a4 with wave := .triangle, harm := 1 } : Voice params).harm.toNat ≠ 0) ∧
    (a4.harm.toNat = 0 ∧ a4.wave = .sine ∧ ({ a4 with wave := .square } : Voice params).wave = .square ∧
      ({ a4 with wave := .saw } : Voice params).wave = .saw ∧ ({ a4 with wave := .triangle } : Voice params).wave = .triangle) := ⟨rfl, by decide, by decide⟩

theorem witness_HarmonicsSumSinePartials : 1 < 2 ∧ (WaveTag.triangle = .triangle ∧ (1 + 1) % 2 = 0) := by decide

theorem witness_HarmonicsStayInRange : (1 ≤ 15 ∧ 15 ≤ 15) ∧ (1 ≤ 1 ∧ 1 ≤ 15) := by decide

theorem witness_SetWaveWritesTheChannel :
    ((16#8).toNat < params.nch ∧ (4#16).toNat ≤ 4) ∧ ¬ ((17#8).toNat < params.nch ∧ (4#16).toNat ≤ 4) ∧
    ¬ ((16#8).toNat < params.nch ∧ (5#16).toNat ≤ 4) := by decide

/-- One voice that the tick retires and one that it advances. -/
theorem witness_SampleTickMakesOneSample :
    (playing [a4off, a4] 500).block.mvol.toNat ≤ 10 ∧
    leads (exec .update (playing [a4off, a4] 500)) (fun u : Blk => !(u.voices[0]).active && (u.voices[1]).active) = true := by
  decide +kernel

theorem witness_MixAveragesTheContributors :
    let contributors := fun (b : Block params) (now : Tick) => (List.finRange params.nv).filter fun i =>
      (b.voices[i]).active && (b.voices[i]).freq != 0 && env b.voices[i] now != 0
    (contributors (blockOf [a4]) 0).length = 0 ∧ (contributors (blockOf [a4, a4]) 25).length ≠ 0 := by decide +kernel

theorem witness_MixStaysInRangeWithoutClamp :
    let b := blockOf [a4]
    (∀ i : Fin params.nv, (b.voices[i]).sus.toNat ≤ 10) ∧ (∀ c : Fin params.nch, (b.chans[c]).vol.toNat ≤ 10) ∧
    b.mvol.toNat ≤ 10 ∧ b.terms 25 (allNoise 0) ≠ [] ∧ b.terms 0 (allNoise 0) = [] := by decide +kernel

theorem witness_MixIgnoresVoiceOrder :
    let order : Equiv.Perm (Fin params.nv) := Equiv.swap ⟨0, by decide⟩ ⟨1, by decide⟩
    let a := blockOf [a4, a4off]
    let b := blockOf [a4off, a4]
    (∀ i : Fin params.nv, b.voices[i] = a.voices[order i] ∧ (allNoise 0)[i] = (allNoise 0)[order i]) ∧
    b.chans = a.chans ∧ b.mvol = a.mvol := by decide +kernel

/-- A voice of each of the three kinds in the place of an inactive one. -/
theorem witness_SilentVoicesDoNotDilute :
    let a := blockOf [a4]
    let b := blockOf [a4, { a4 with freq := 0 }, { a4 with vel := 0, wave := .noise }, { a4 with active := false }]
    (∀ i : Fin params.nv, b.voices[i] = a.voices[i] ∨
      (((a.voices[i]).active = false ∨ (a.voices[i]).freq = 0 ∨ env a.voices[i] 25 = 0) ∧
        ((b.voices[i]).active = false ∨ (b.voices[i]).freq = 0 ∨ env b.voices[i] 25 = 0))) ∧
    b.chans = a.chans ∧ b.mvol = a.mvol := by decide +kernel

theorem witness_EncoderStartsAndStops : State.reset.block.enc.run = false ∧ legal.block.enc.run = true := by decide

/-- A sum of 32769 and a sum of 32768: the two sides of the strict comparison. -/
theorem witness_PulseEmitsOneBit :
    State.reset.block.enc.run = false ∧
    ((running 1 1 0).run = true ∧ (running 1 1 0).Inv params ∧ 32768 < (running 1 1 0).sum params) ∧
    ((running 0 0 0).run = true ∧ (running 0 0 0).Inv params ∧ (running 0 0 0).sum params ≤ 32768) :=
  ⟨rfl, ⟨rfl, running_inv (by decide) (by decide) (by decide), by decide⟩,
    ⟨rfl, running_inv (by decide) (by decide) (by decide), by decide⟩⟩

theorem witness_PulseIntermediatesStayInRange : (running (-32768) 32768 21).Inv params :=
  running_inv (by decide) (by decide) (by decide)

theorem witness_QuantisationErrorStaysBounded : (running (-32768) 32768 21).Inv params :=
  witness_PulseIntermediatesStayInRange

/-- Two pulses with a push and a volume change between them, and a `RESET` only after the five events counted. -/
theorem witness_PulseDensityFollowsTheInput :
    let s : State := { legal with pending :=
      [.pulse, .cmd 0xE000000000004000 9 (allNoise 1), .cmd 0xF200400000000000 9 (allNoise 1), .pulse, .pulse, .reset] }
    s.Inv ∧ Event.reset ∉ s.pending.take 5 ∧ s.emitsBit = true := by
  exact ⟨witness_legalBlock, by simp, rfl⟩

/-- The three constant inputs. -/
theorem witness_ConstantInputStreams : ∀ x : Int, x = 32768 ∨ x = -32768 ∨ x = 0 →
    (running x x 0).Inv params ∧ (running x x 0).run = true ∧ (running x x 0).vol.toNat = 32768 ∧
    (running x x 0).err.toInt = 0 ∧ (running x x 0).bufPrev = (running x x 0).bufCur ∧
    (running x x 0).bufCur.toInt = x := by
  rintro x (rfl | rfl | rfl) <;> exact ⟨running_inv (by decide) (by decide) (by decide), rfl, rfl, rfl, rfl, by decide⟩

theorem witness_SweepRepeatsEveryOsrPulses :
    (running 0 32768 21).run = true ∧ (running 0 32768 21).phase.toNat < params.osr := ⟨rfl, by decide⟩

theorem witness_StatusPortsFollowTheState : legalBlock.Inv ∧ params.nch ≤ 17 := ⟨witness_legalBlock, by decide⟩

end Sys2Proof.Tests
end

section
/-! Steps and events (00_scope.md, R14): a step with an event pending is that event applied; a command and a pulse strobe
are one instruction each. -/

namespace Sys2Proof.Machine

/-- A command samples the ports and runs the instruction its word decodes to (R31, R33, R34). -/
theorem applyEvent_cmd (s : State) (word : Word) (now : Tick) (noise : Vector Q15 s.params.nv) :
    applyEvent s (.cmd word now noise) = exec (decode word) (s.sample now noise) := rfl

/-- A pulse strobe samples no port and decodes no word (R94). -/
theorem applyEvent_pulse (s : State) : applyEvent s .pulse = exec .pulse s := rfl

/-- One event is one step (R14), which takes it off the list. -/
theorem step_eq_applyEvent {s : State} {e : Event s.params} {rest : List (Event s.params)} (h : s.pending = e :: rest) :
    step s = applyEvent { s with pending := rest } e := by
  rw [step_cons h, applyEvent_eq]

/-- Settles O7: the step is the command event applied, which runs the decoded instruction on the sampled ports. -/
theorem stepExecutesDecodedCommand : Obligations.StepExecutesDecodedCommand := by
  rintro s word now noise rest _ hpending rfl
  rw [step_eq_applyEvent hpending, applyEvent_cmd, State.sample]

/-- Settles O8: the step is the pulse event applied, or nothing where no event is pending (log entry 13). -/
theorem stepAppliesPulseOrWaits : Obligations.StepAppliesPulseOrWaits := by
  refine ⟨fun s rest hpending => ?pulse, fun s hnone => step_nil hnone⟩
  case pulse => rw [step_eq_applyEvent hpending, applyEvent_pulse]

end Sys2Proof.Machine
end

section
/-! Legal states (10_state.md R35, R39 to R41): every instruction and every event keeps the block legal. The encoder's ranges
are those of R325 and R242; the voices keep theirs because a command writes a clamped operand or a table entry. -/

namespace Sys2Proof.Machine

open Sys2Proof.Laws

variable {P : Params}

/-! ### Voices and channels -/

/-- A rewrite that activates no voice, keeps `FREQ`, `INC` and `HARM` and writes a legal `SUS` keeps the voice legal. -/
theorem Voice.Inv.of_kept {v w : Voice P} (h : v.Inv) (hactive : w.active = true → v.active = true)
    (hfreq : w.freq = v.freq) (hinc : w.inc = v.inc) (hharm : w.harm = v.harm) (hsus : w.sus.toNat ≤ 10) : w.Inv where
  freq_le := by rw [hfreq]; exact h.freq_le
  freq_mem := fun ha => by rw [hfreq]; exact h.freq_mem (hactive ha)
  sus_le := hsus
  harm_le := by rw [hharm]; exact h.harm_le
  inc_eq := fun ha => by rw [hfreq, hinc]; exact h.inc_eq (hactive ha)

theorem level10_le {w : Nat} (a : BitVec w) : (level10 a).toNat ≤ 10 := by rw [level10_toNat]; omega

theorem harmonics_le (count : BitVec 16) : (harmonics P count).toNat ≤ P.hmax := by rw [harmonics_toNat]; omega

/-- The voice `NOTE_ON` writes is legal whatever stood in its place (R123, R125). -/
theorem Voice.Inv.noteOn {c : Fin P.nch} {entry : Channel} (hentry : entry.Inv P) {n : Nat} (hn : n ≤ 127) (vel : BitVec 7)
    (now : Tick) (v : Voice P) : (v.noteOn c entry n vel now).Inv where
  freq_le := fun _ htop => htop _ (noteFreq_mem hn)
  freq_mem := fun _ => noteFreq_mem hn
  sus_le := P.valid.defSus_le
  harm_le := hentry.harm_le
  inc_eq := fun _ => rfl

theorem Block.Inv.noteOn {b : Block P} (h : b.Inv) (ch : BitVec 8) (note vel : BitVec 16) (now : Tick) :
    (b.noteOn ch note vel now).Inv := by
  obtain hkept | ⟨c, n, hn, hwritten⟩ := Block.noteOn_cases ch note vel now b
  · rwa [hkept]
  · rw [hwritten]
    exact h.updVoice fun v _ => .noteOn (h.chans c) hn _ now v

theorem Block.Inv.noteOff {b : Block P} (h : b.Inv) (ch : BitVec 8) (note : BitVec 16) (now : Tick) :
    (b.noteOff ch note now).Inv := by
  obtain hkept | ⟨i, -, -, hwritten⟩ := Block.noteOff_cases ch note now b
  · rwa [hkept]
  · rw [hwritten]
    exact h.updVoice fun v hv => hv.of_kept id rfl rfl rfl hv.sus_le

theorem Block.Inv.allOff {b : Block P} (h : b.Inv) : b.allOff.Inv :=
  h.mapVoices fun _ _ hv => hv.of_kept nofun rfl rfl rfl hv.sus_le

theorem Block.Inv.retire {b : Block P} (h : b.Inv) (now : Tick) : (b.retire now).Inv :=
  h.mapVoices fun _ v hv => by
    split
    · exact hv.of_kept nofun rfl rfl rfl hv.sus_le
    · exact hv

theorem Block.Inv.advance {b : Block P} (h : b.Inv) : b.advance.Inv :=
  h.mapVoices fun _ v hv => by
    split
    · exact hv.of_kept id rfl rfl rfl hv.sus_le
    · exact hv

theorem Block.Inv.setMvol {b : Block P} (h : b.Inv) (volume : BitVec 16) : (b.setMvol volume).Inv :=
  ⟨h.voices, h.chans, level10_le volume, h.mixOut_range, h.enc⟩

theorem Block.Inv.setChvol {b : Block P} (h : b.Inv) (ch : BitVec 8) (volume : BitVec 16) : (b.setChvol ch volume).Inv := by
  obtain hkept | ⟨c, hwritten⟩ := Block.setChvol_cases ch volume b
  · rwa [hkept]
  · rw [hwritten]
    exact h.updChan fun e he => ⟨level10_le volume, he.harm_le⟩

theorem Block.Inv.setWave {b : Block P} (h : b.Inv) (ch : BitVec 8) (tag count : BitVec 16) :
    (b.setWave ch tag count).Inv := by
  obtain hkept | ⟨c, w, hwritten⟩ := Block.setWave_cases ch tag count b
  · rwa [hkept]
  · rw [hwritten]
    exact h.updChan fun e he => ⟨he.vol_le, harmonics_le count⟩

/-- `SAMPLE_TICK` writes a mix that a legal master volume keeps in range (R215). -/
theorem Block.Inv.sampleTick {b : Block P} (h : b.Inv) (now : Tick) (noise : Vector Q15 P.nv) :
    (b.sampleTick now noise).Inv :=
  (h.retire now).advance.emit (mixScale_range h.mvol_le _)

/-! ### The encoder -/

/-- Interpolating at a proper fraction stays between the two samples (R325). -/
theorem interpolation_range (prev cur : Int) {ph osr : Nat} (hph : ph < osr) :
    min prev cur ≤ prev + fdiv ((cur - prev) * ph) osr ∧ prev + fdiv ((cur - prev) * ph) osr ≤ max prev cur := by
  have hosr : (0 : Int) < osr := by omega
  have hle : (ph : Int) ≤ osr := by omega
  obtain hup | hdown := le_total prev cur
  · have h0 : 0 ≤ fdiv ((cur - prev) * ph) osr := fdiv_nonneg hosr (mul_nonneg (by omega) (by omega))
    have h1 : fdiv ((cur - prev) * ph) osr ≤ cur - prev :=
      fdiv_le_of_le_mul hosr (mul_le_mul_of_nonneg_left hle (by omega))
    omega
  · have h0 : fdiv ((cur - prev) * ph) osr ≤ 0 :=
      fdiv_le_of_le_mul hosr (by rw [zero_mul]; exact mul_nonpos_of_nonpos_of_nonneg (by omega) (by omega))
    have h1 : cur - prev ≤ fdiv ((cur - prev) * ph) osr :=
      le_fdiv_of_mul_le hosr (mul_le_mul_of_nonpos_left hle (by omega))
    omega

theorem Encoder.Inv.interp_range {e : Encoder} (h : e.Inv P) :
    min e.bufPrev.toInt e.bufCur.toInt ≤ e.interp P ∧ e.interp P ≤ max e.bufPrev.toInt e.bufCur.toInt :=
  interpolation_range _ _ h.phase_lt

/-- A level scaled by a volume of at most `ONE` is a level. -/
theorem scaledLevel_range {x : Int} (hx : -one ≤ x ∧ x ≤ one) {vol : Nat} (hvol : (vol : Int) ≤ one) :
    -one ≤ fdiv (x * vol) one ∧ fdiv (x * vol) one ≤ one := by
  obtain ⟨hlo, hhi⟩ := hx
  unfold one at *
  constructor
  · exact le_fdiv_of_mul_le (by omega) (by nlinarith)
  · exact fdiv_le_of_le_mul (by omega) (by nlinarith)

theorem Encoder.Inv.scaled_range {e : Encoder} (h : e.Inv P) : -one ≤ e.scaled P ∧ e.scaled P ≤ one := by
  obtain ⟨hlo, hhi⟩ := h.interp_range
  obtain ⟨hcurLo, hcurHi⟩ := h.bufCur_range
  obtain ⟨hprevLo, hprevHi⟩ := h.bufPrev_range
  exact scaledLevel_range (by omega) h.vol_le

theorem Encoder.Inv.mapped_range {e : Encoder} (h : e.Inv P) : 0 ≤ e.mapped P ∧ e.mapped P ≤ 65536 := by
  obtain ⟨hlo, hhi⟩ := h.scaled_range
  unfold Encoder.mapped one at *
  omega

theorem Encoder.Inv.sum_range {e : Encoder} (h : e.Inv P) : -32767 ≤ e.sum P ∧ e.sum P ≤ 98304 := by
  obtain ⟨hlo, hhi⟩ := h.mapped_range
  obtain ⟨herrLo, herrHi⟩ := h.err_range
  unfold Encoder.sum
  omega

/-- Taking a whole period off a sum above one half, and nothing off one below, leaves an error in range (R242). -/
theorem Encoder.Inv.nextErr_range {e : Encoder} (h : e.Inv P) : -32767 ≤ e.nextErr P ∧ e.nextErr P ≤ 32768 := by
  obtain ⟨hlo, hhi⟩ := h.sum_range
  unfold Encoder.nextErr Encoder.nextBit one
  split
  · simp only [decide_eq_true_eq] at *
    omega
  · simp only [decide_eq_true_eq] at *
    omega

theorem Encoder.Inv.pulseRunning {e : Encoder} (h : e.Inv P) (hrun : e.run = true) : (e.pulseRunning P).Inv P where
  bufCur_range := h.bufCur_range
  bufPrev_range := h.bufPrev_range
  err_range := by
    have herr := h.nextErr_range
    rw [Encoder.pulseRunning, toQ15_toInt (by omega)]
    exact herr
  phase_lt := by
    rw [← Encoder.pulse_of_running hrun, Encoder.pulse_phase hrun]
    exact Nat.mod_lt _ P.valid.osr_pos
  vol_le := h.vol_le
  pwmEn_eq := h.pwmEn_eq
  duty_eq := rfl
  stopped_bit := fun hstop => absurd (hrun.symm.trans hstop) (by decide)

theorem Encoder.Inv.pulse {e : Encoder} (h : e.Inv P) : (e.pulse P).Inv P := by
  cases hrun : e.run
  · rwa [Encoder.pulse_of_stopped hrun]
  · rw [Encoder.pulse_of_running hrun]
    exact h.pulseRunning hrun

/-- Starting puts the phase at 0 and enables the PWM with the running flag (R236). -/
theorem Encoder.Inv.start {e : Encoder} (h : e.Inv P) : e.start.Inv P := by
  unfold Encoder.start
  split
  · exact h
  · exact ⟨h.bufCur_range, h.bufPrev_range, h.err_range, P.valid.osr_pos, h.vol_le, rfl, h.duty_eq, nofun⟩

/-- Stopping clears the bit together with the duty (R237, R246). -/
theorem Encoder.Inv.stop {e : Encoder} (h : e.Inv P) : e.stop.Inv P :=
  ⟨h.bufCur_range, h.bufPrev_range, h.err_range, h.phase_lt, h.vol_le, rfl, rfl, fun _ => rfl⟩

theorem Encoder.Inv.setVol {e : Encoder} (h : e.Inv P) (volume : BitVec 16) :
    Encoder.Inv P { e with vol := encoderVolume volume } where
  bufCur_range := h.bufCur_range
  bufPrev_range := h.bufPrev_range
  err_range := h.err_range
  phase_lt := h.phase_lt
  vol_le := by rw [encoderVolume_toNat, one]; omega
  pwmEn_eq := h.pwmEn_eq
  duty_eq := h.duty_eq
  stopped_bit := h.stopped_bit

/-! ### The block after reset, after an instruction, after a step -/

theorem zero_level_range : -one ≤ (0 : Q15).toInt ∧ (0 : Q15).toInt ≤ one := by decide

theorem Encoder.Inv.reset (P : Params) : Encoder.reset.Inv P where
  bufCur_range := zero_level_range
  bufPrev_range := zero_level_range
  err_range := (by decide : -32767 ≤ (0 : Q15).toInt ∧ (0 : Q15).toInt ≤ 32768)
  phase_lt := P.valid.osr_pos
  vol_le := le_refl one
  pwmEn_eq := rfl
  duty_eq := rfl
  stopped_bit := fun _ => rfl

/-- Reset makes the block legal (R49; for the unspecified voice fields by log entry 3). -/
theorem Block.Inv.reset (P : Params) : (Block.reset P).Inv where
  voices := fun i => by
    rw [Fin.getElem_fin, Block.reset_voices_getElem]
    exact ⟨fun _ _ => Nat.zero_le _, nofun, Nat.zero_le _, Nat.zero_le _, nofun⟩
  chans := fun c => by
    rw [Fin.getElem_fin, Block.reset_chans_getElem]
    exact ⟨le_refl 10, Nat.zero_le _⟩
  mvol_le := le_refl 10
  mixOut_range := zero_level_range
  enc := .reset P

/-- Every instruction keeps the block legal. -/
theorem Block.Inv.blockExec {b : Block P} (h : b.Inv) (i : Instr) (now : Tick) (noise : Vector Q15 P.nv) :
    (blockExec P i now noise b).Inv := by
  cases i with
  | nop | reservedF3 | reservedF4F7 _ | reservedF8FF _ => exact h
  | noteOn ch note vel => exact h.noteOn ch note vel now
  | noteOff ch note => exact h.noteOff ch note now
  | allOff => exact h.allOff
  | setMvol volume => exact h.setMvol volume
  | setChvol ch volume => exact h.setChvol ch volume
  | setAdsr ch attack decay sustain release => exact h.retuneOn fun v hv => hv.of_kept id rfl rfl rfl (level10_le sustain)
  | setSustain ch sustain => exact h.retuneOn fun v hv => hv.of_kept id rfl rfl rfl (level10_le sustain)
  | setAttack ch _ | setDecay ch _ | setRelease ch _ => exact h.retuneOn fun v hv => hv.of_kept id rfl rfl rfl hv.sus_le
  | setWave ch tag count => exact h.setWave ch tag count
  | update => exact h.retire now
  | sampleTick => exact h.sampleTick now noise
  | dsPush sample => exact h.updEnc (h.enc.push _)
  | dsStart => exact h.updEnc h.enc.start
  | dsStop => exact h.updEnc h.enc.stop
  | dsSetVol volume => exact h.updEnc (f := fun e => { e with vol := encoderVolume volume }) (h.enc.setVol volume)
  | pulse => exact h.updEnc h.enc.pulse

/-- Settles O14: the one new block of a step is an instruction's or the one after reset, and both are legal. -/
theorem stepKeepsLegalState : Obligations.StepKeepsLegalState := by
  intro s h
  obtain ⟨-, hstep⟩ | ⟨e, rest, -, hstep⟩ := step_cases s
  · exact ⟨s, hstep, h⟩
  · exact ⟨_, hstep, State.afterEvent_block (M := fun _ b => b.Inv) (Block.Inv.reset s.params) (Block.Inv.blockExec h)⟩

end Sys2Proof.Machine
end

section
/-! Reset (10_state.md R49, R50): the state after reset has the values of R49's table and is legal, and a `RESET` event leaves
it. -/

namespace Sys2Proof.Machine

variable {P : Params}

/-- Settles O13 (by log entry 3 for the voice fields R49 leaves unspecified). -/
theorem resetStateIsLegal : Obligations.ResetStateIsLegal := ⟨.reset _, .reset⟩

/-- Reset gives every register the value of R49's table. -/
theorem Block.AsAfterReset.reset (P : Params) : (Block.reset P).AsAfterReset where
  active := fun i => by rw [Fin.getElem_fin, Block.reset_voices_getElem]; rfl
  released := fun i => by rw [Fin.getElem_fin, Block.reset_voices_getElem]; rfl
  chans := fun c => by rw [Fin.getElem_fin, Block.reset_chans_getElem]; decide
  mvol := rfl
  mixOut := rfl
  buffer := ⟨rfl, rfl⟩
  err := rfl
  phase := rfl
  vol := rfl
  run := rfl
  outputs := ⟨rfl, rfl, rfl⟩

/-- Settles O11. -/
theorem resetValues : Obligations.ResetValues := ⟨.reset _, .reset⟩

/-- While `rst` is asserted the one event is `RESET` and no command is accepted (R50; log entry 11). -/
theorem Ports.events_of_rst {p : Ports P} (h : p.rst = true) : p.events = [.reset] := by simp [Ports.events, h]

theorem Ports.cmdReady_of_rst {p : Ports P} (h : p.rst = true) : p.cmdReady = false := by simp [Ports.cmdReady, h]

/-- Settles O10: the step on a `RESET` event leaves the block after reset, whatever the state was. -/
theorem resetEventResetsEverything : Obligations.ResetEventResetsEverything := by
  refine ⟨fun s rest hpending => ?step, fun P p hrst => ⟨p.events_of_rst hrst, p.cmdReady_of_rst hrst⟩⟩
  case step => exact ⟨Block.reset s.params, step_cons hpending, .reset s.params⟩

end Sys2Proof.Machine
end

section
/-! Fields no rule reads (10_state.md R38): alike voices answer every test and give every amplitude and term alike, so every
instruction leaves alike blocks, and alike blocks drive the output ports alike. -/

namespace Sys2Proof.Machine

variable {P : Params}

/-! ### Alike voices -/

theorem Voice.Alike.refl (v : Voice P) : v.Alike v := ⟨rfl, fun _ => ⟨rfl, fun _ => rfl⟩⟩

theorem Voice.Alike.of_inactive {v w : Voice P} (hv : v.active = false) (hw : w.active = false) : v.Alike w :=
  ⟨hv.trans hw.symm, fun h => absurd (h.symm.trans hv) (by decide)⟩

theorem Voice.Alike.of_notReleased {v : Voice P} (h : v.released = false) (r : Tick) : v.Alike { v with relTick := r } :=
  ⟨rfl, fun _ => ⟨rfl, fun hr => absurd (hr.symm.trans h) (by decide)⟩⟩

/-- Alike voices are both inactive, or equal, or one sounding voice with another stale `REL_TICK`. -/
theorem Voice.Alike.cases {v w : Voice P} (h : v.Alike w) :
    (v.active = false ∧ w.active = false) ∨ v = w ∨
      (v.active = true ∧ v.released = false ∧ ∃ r, w = { v with relTick := r }) := by
  obtain ⟨hactive, hfields⟩ := h
  obtain hv | hv := Bool.eq_false_or_eq_true v.active
  · obtain ⟨hw, hrelTick⟩ := hfields hv
    obtain hr | hr := Bool.eq_false_or_eq_true v.released
    · exact .inr (.inl (by rw [← hw, ← hrelTick hr]))
    · exact .inr (.inr ⟨hv, hr, w.relTick, hw.symm⟩)
  · exact .inl ⟨hv, hactive.symm.trans hv⟩

/-! ### What is read of a voice -/

theorem Voice.Alike.plays_eq {v w : Voice P} (h : v.Alike w) (c : Fin P.nch) (f : BitVec 14) : v.plays c f = w.plays c f := by
  obtain ⟨hv, hw⟩ | rfl | ⟨-, -, r, rfl⟩ := h.cases
  · simp [Voice.plays, Voice.sounding, hv, hw]
  · rfl
  · rfl

theorem Voice.Alike.finished_eq {v w : Voice P} (h : v.Alike w) (now : Tick) : v.finished now = w.finished now := by
  obtain ⟨hv, hw⟩ | rfl | ⟨-, hsounds, r, rfl⟩ := h.cases
  · simp [Voice.finished, Voice.releasing, hv, hw]
  · rfl
  · simp [Voice.finished, Voice.releasing, hsounds]

theorem Voice.Alike.onChannel_eq {v w : Voice P} (h : v.Alike w) (c : Nat) :
    (v.active && v.ch.val == c) = (w.active && w.ch.val == c) := by
  obtain ⟨hv, hw⟩ | rfl | ⟨-, -, r, rfl⟩ := h.cases
  · simp [hv, hw]
  · rfl
  · rfl

/-- Before release the amplitude does not read `REL_TICK` (R151). -/
theorem env_relTick {v : Voice P} (h : v.released = false) (r now : Tick) : env { v with relTick := r } now = env v now := by
  have hstage : Voice.stage { v with relTick := r } now = v.stage now := by
    simp only [Voice.stage, h, Bool.false_eq_true, if_false]
    rfl
  have hnotRelease : v.stage now ≠ .release := by
    simp only [Voice.stage, h, Bool.false_eq_true, if_false]
    split_ifs <;> decide
  unfold env
  rw [hstage]
  cases hs : v.stage now with
  | release => exact absurd hs hnotRelease
  | attack | decay | sustain | finished => rfl

theorem Voice.Alike.envOut_eq {v w : Voice P} (h : v.Alike w) (now : Tick) :
    (if v.active then env v now else 0) = if w.active then env w now else 0 := by
  obtain ⟨hv, hw⟩ | rfl | ⟨-, hsounds, r, rfl⟩ := h.cases
  · simp [hv, hw]
  · rfl
  · rw [env_relTick hsounds r]

/-- Alike voices add the same to a mix, each with the volume of its own channel (R212, R213). -/
theorem Voice.Alike.voiceTerm_eq {v w : Voice P} (h : v.Alike w) (chans : Vector Channel P.nch) (now : Tick) (noise : Q15) :
    voiceTerm v (chans[v.ch]).vol now noise = voiceTerm w (chans[w.ch]).vol now noise := by
  obtain ⟨hv, hw⟩ | rfl | ⟨-, hsounds, r, rfl⟩ := h.cases
  · rw [voiceTerm_eq_none (.inl hv), voiceTerm_eq_none (.inl hw)]
  · rfl
  · unfold voiceTerm
    rw [env_relTick hsounds r]
    rfl

/-! ### Rewrites of a voice that keep alike voices alike -/

/-- `NOTE_ON` writes every field but `REL_TICK` and clears `RELEASED` (R123), so any two voices become alike. -/
theorem Voice.Alike.noteOn (c : Fin P.nch) (entry : Channel) (n : Nat) (vel : BitVec 7) (now : Tick) (v w : Voice P) :
    (v.noteOn c entry n vel now).Alike (w.noteOn c entry n vel now) :=
  .of_notReleased (v := v.noteOn c entry n vel now) rfl w.relTick

/-- `NOTE_OFF` gives `REL_TICK` its meaning by writing it (R126). -/
theorem Voice.Alike.noteOff {v w : Voice P} (h : v.Alike w) (now : Tick) : (v.noteOff now).Alike (w.noteOff now) := by
  obtain ⟨hv, hw⟩ | rfl | ⟨-, -, r, rfl⟩ := h.cases
  · exact .of_inactive hv hw
  · exact .refl _
  · exact .refl _

theorem Voice.Alike.retire {v w : Voice P} (h : v.Alike w) (now : Tick) :
    Voice.Alike (if v.finished now then { v with active := false } else v)
      (if w.finished now then { w with active := false } else w) := by
  rw [h.finished_eq now]
  split
  · exact .of_inactive rfl rfl
  · exact h

/-- A rewrite of the active voices of a channel that leaves alone what `Voice.Alike` speaks of and does not read it. -/
theorem Voice.Alike.rewrite {v w : Voice P} (h : v.Alike w) {reads : Voice P → Bool} {f : Voice P → Voice P}
    (hreads : ∀ v r, reads { v with relTick := r } = reads v)
    (hrelTick : ∀ v r, f { v with relTick := r } = { f v with relTick := r })
    (hreleased : ∀ v, (f v).released = v.released) :
    Voice.Alike (if v.active && reads v then f v else v) (if w.active && reads w then f w else w) := by
  obtain ⟨hv, hw⟩ | rfl | ⟨hv, hsounds, r, rfl⟩ := h.cases
  · simpa [hv, hw] using h
  · exact .refl _
  · rw [hreads v r, hrelTick v r]
    show Voice.Alike _ (if v.active && reads v then _ else _)
    split
    · exact .of_notReleased ((hreleased v).trans hsounds) r
    · exact .of_notReleased hsounds r

/-! ### Alike blocks -/

theorem Block.Alike.refl (b : Block P) : b.Alike b := ⟨⟨rfl, rfl, rfl, rfl⟩, fun _ => .refl _⟩

theorem Block.Alike.mapVoices {a b : Block P} (h : a.Alike b) {f : Fin P.nv → Voice P → Voice P}
    (hf : ∀ i {v w : Voice P}, v.Alike w → (f i v).Alike (f i w)) : (a.mapVoices f).Alike (b.mapVoices f) where
  chans := h.chans
  mvol := h.mvol
  mixOut := h.mixOut
  enc := h.enc
  voices := fun i => by simpa using hf i (h.voices i)

theorem Block.Alike.updVoice {a b : Block P} (h : a.Alike b) (i : Nat) {f : Voice P → Voice P}
    (hf : ∀ {v w : Voice P}, v.Alike w → (f v).Alike (f w)) : (a.updVoice i f).Alike (b.updVoice i f) :=
  h.mapVoices fun j v w hvw => by
    split
    · exact hf hvw
    · exact hvw

theorem Block.Alike.retuneOn {a b : Block P} (h : a.Alike b) (ch : BitVec 8) {f : Voice P → Voice P}
    (hrelTick : ∀ v r, f { v with relTick := r } = { f v with relTick := r })
    (hreleased : ∀ v, (f v).released = v.released) : (a.retuneOn ch f).Alike (b.retuneOn ch f) := by
  rw [Block.retuneOn_eq_mapVoices, Block.retuneOn_eq_mapVoices]
  exact h.mapVoices fun _ _ _ hvw => hvw.rewrite (reads := fun v => v.ch.val == ch.toNat) (fun _ _ => rfl) hrelTick hreleased

theorem Block.Alike.updChan {a b : Block P} (h : a.Alike b) (c : Fin P.nch) (f : Channel → Channel) :
    (a.updChan c f).Alike (b.updChan c f) where
  chans := by rw [Block.updChan, Block.updChan, h.chans]
  mvol := h.mvol
  mixOut := h.mixOut
  enc := h.enc
  voices := h.voices

theorem Block.Alike.updEnc {a b : Block P} (h : a.Alike b) (f : Encoder → Encoder) : (a.updEnc f).Alike (b.updEnc f) where
  chans := h.chans
  mvol := h.mvol
  mixOut := h.mixOut
  enc := congrArg f h.enc
  voices := h.voices

theorem Block.Alike.emit {a b : Block P} (h : a.Alike b) (x : Int) : (a.emit x).Alike (b.emit x) where
  chans := h.chans
  mvol := h.mvol
  mixOut := rfl
  enc := congrArg (Encoder.push _) h.enc
  voices := h.voices

theorem Block.Alike.setMvol {a b : Block P} (h : a.Alike b) (volume : BitVec 16) :
    (a.setMvol volume).Alike (b.setMvol volume) where
  chans := h.chans
  mvol := rfl
  mixOut := h.mixOut
  enc := h.enc
  voices := h.voices

theorem Block.Alike.setChvol {a b : Block P} (h : a.Alike b) (ch : BitVec 8) (volume : BitVec 16) :
    (a.setChvol ch volume).Alike (b.setChvol ch volume) := by
  unfold Block.setChvol
  cases chan? P ch with
  | none => exact h
  | some c => exact h.updChan c _

theorem Block.Alike.setWave {a b : Block P} (h : a.Alike b) (ch : BitVec 8) (tag count : BitVec 16) :
    (a.setWave ch tag count).Alike (b.setWave ch tag count) := by
  unfold Block.setWave
  cases chan? P ch with
  | none => exact h
  | some c =>
    cases waveTag? tag with
    | none => exact h
    | some w => exact h.updChan c _

/-! ### What is read of the pool -/

/-- What is read alike of the voices of two pools is read alike of their lists. -/
theorem Block.map_toList_congr {β : Type} {a b : Block P} {g : Voice P → β}
    (hg : ∀ i : Fin P.nv, g a.voices[i] = g b.voices[i]) : a.voices.toList.map g = b.voices.toList.map g := by
  refine List.ext_getElem (by simp) fun i hi _ => ?_
  simpa using hg ⟨i, by simpa using hi⟩

theorem Block.findIdx?_toList_congr {a b : Block P} {p : Voice P → Bool}
    (hp : ∀ i : Fin P.nv, p a.voices[i] = p b.voices[i]) : a.voices.toList.findIdx? p = b.voices.toList.findIdx? p := by
  have h := congrArg (List.findIdx? id) (Block.map_toList_congr hp)
  rwa [List.findIdx?_map, List.findIdx?_map] at h

/-- `oldestVoice` reads `START` only (R124). -/
theorem oldestVoice_congr {pool pool' : List (Voice P)}
    (h : pool.map (fun v => v.start) = pool'.map fun v => v.start) : oldestVoice pool = oldestVoice pool' := by
  have hmap : ∀ pool : List (Voice P), oldestVoice pool =
      (pool.map fun v => v.start).findIdx fun t => (pool.map fun v => v.start).all fun u => decide (t.toNat ≤ u.toNat) := by
    intro pool
    simp [oldestVoice, List.findIdx_map, List.all_map, Function.comp_def]
  rw [hmap, hmap, h]

/-- `NOTE_ON` takes the same voice of alike pools: `START` is read only where every voice is active (R124). -/
theorem Block.Alike.pickVoice_eq {a b : Block P} (h : a.Alike b) :
    pickVoice a.voices.toList = pickVoice b.voices.toList := by
  have hfree : (a.voices.toList.findIdx? fun v => !v.active) = b.voices.toList.findIdx? fun v => !v.active :=
    Block.findIdx?_toList_congr fun i => by rw [(h.voices i).1]
  unfold pickVoice
  rw [← hfree]
  cases hfound : a.voices.toList.findIdx? fun v => !v.active with
  | some i => rfl
  | none =>
    rw [List.findIdx?_eq_none_iff] at hfound
    refine oldestVoice_congr (Block.map_toList_congr fun i => ?_)
    have hbusy : (a.voices[i]).active = true := by simpa using hfound a.voices[i] (by simp)
    rw [← ((h.voices i).2 hbusy).1]

/-- `NOTE_OFF` releases the same voice of alike pools (R126). -/
theorem Block.Alike.findPlaying_eq {a b : Block P} (h : a.Alike b) (c : Fin P.nch) (f : BitVec 14) :
    findPlaying c f a.voices.toList = findPlaying c f b.voices.toList :=
  Block.findIdx?_toList_congr fun i => (h.voices i).plays_eq c f

theorem Block.Alike.mix_eq {a b : Block P} (h : a.Alike b) (now : Tick) (noise : Vector Q15 P.nv) :
    a.mix now noise = b.mix now noise :=
  Block.mix_congr (a := a) (b := b) h.mvol.symm fun i => by
    rw [Block.termOf, Block.termOf, h.chans]
    exact (h.voices i).voiceTerm_eq a.chans now noise[i]

/-! ### Instructions, ports, steps -/

theorem Block.Alike.noteOn {a b : Block P} (h : a.Alike b) (ch : BitVec 8) (note vel : BitVec 16) (now : Tick) :
    (a.noteOn ch note vel now).Alike (b.noteOn ch note vel now) := by
  unfold Block.noteOn
  cases chan? P ch with
  | none => exact h
  | some c =>
    cases note? note with
    | none => exact h
    | some n =>
      rw [h.pickVoice_eq, h.chans]
      exact h.updVoice _ fun {v w} _ => .noteOn c _ n _ now v w

theorem Block.Alike.noteOff {a b : Block P} (h : a.Alike b) (ch : BitVec 8) (note : BitVec 16) (now : Tick) :
    (a.noteOff ch note now).Alike (b.noteOff ch note now) := by
  unfold Block.noteOff
  cases chan? P ch with
  | none => exact h
  | some c =>
    cases note? note with
    | none => exact h
    | some n =>
      dsimp only
      rw [h.findPlaying_eq]
      cases findPlaying c (noteFreq P n) b.voices.toList with
      | none => exact h
      | some i => exact h.updVoice i fun hvw => hvw.noteOff now

theorem Block.Alike.retire {a b : Block P} (h : a.Alike b) (now : Tick) : (a.retire now).Alike (b.retire now) :=
  h.mapVoices fun _ _ _ hvw => hvw.retire now

theorem Block.Alike.advance {a b : Block P} (h : a.Alike b) : a.advance.Alike b.advance :=
  h.mapVoices fun _ v w hvw => by
    simpa using hvw.rewrite (reads := fun _ => true) (f := fun v => { v with phase := v.phase + v.inc })
      (fun _ _ => rfl) (fun _ _ => rfl) fun _ => rfl

theorem Block.Alike.sampleTick {a b : Block P} (h : a.Alike b) (now : Tick) (noise : Vector Q15 P.nv) :
    (a.sampleTick now noise).Alike (b.sampleTick now noise) := by
  rw [Block.sampleTick, Block.sampleTick, (h.retire now).advance.mix_eq]
  exact (h.retire now).advance.emit _

/-- Every instruction leaves alike blocks alike. -/
theorem Block.Alike.blockExec {a b : Block P} (h : a.Alike b) (i : Instr) (now : Tick) (noise : Vector Q15 P.nv) :
    (blockExec P i now noise a).Alike (blockExec P i now noise b) := by
  cases i with
  | nop | reservedF3 | reservedF4F7 _ | reservedF8FF _ => exact h
  | noteOn ch note vel => exact h.noteOn ch note vel now
  | noteOff ch note => exact h.noteOff ch note now
  | allOff => exact h.mapVoices (f := fun _ v => { v with active := false }) fun _ _ _ _ => .of_inactive rfl rfl
  | setMvol volume => exact h.setMvol volume
  | setChvol ch volume => exact h.setChvol ch volume
  | setAdsr ch _ _ _ _ | setAttack ch _ | setDecay ch _ | setSustain ch _ | setRelease ch _ =>
    exact h.retuneOn ch (fun _ _ => rfl) fun _ => rfl
  | setWave ch tag count => exact h.setWave ch tag count
  | update => exact h.retire now
  | sampleTick => exact h.sampleTick now noise
  | dsSetVol volume => exact h.updEnc fun e => { e with vol := encoderVolume volume }
  | dsPush _ | dsStart | dsStop | pulse => exact h.updEnc _

/-- No output port tells alike blocks apart (R32, R44 to R46). -/
theorem Block.Alike.outputs_eq {a b : Block P} (h : a.Alike b) (now : Tick) : a.outputs now = b.outputs now := by
  have hcount : a.activeCount = b.activeCount := by
    have hmap := congrArg (List.countP id) (Block.map_toList_congr fun i => (h.voices i).1)
    simpa [Block.activeCount, List.countP_map, Function.comp_def] using hmap
  have hchActive : ∀ c, a.chActive c = b.chActive c := fun c => by
    have hmap := congrArg (List.any · id) (Block.map_toList_congr (g := fun v => v.active && v.ch.val == c)
      fun i => (h.voices i).onChannel_eq c)
    simpa [Block.chActive, List.any_map, Function.comp_def] using hmap
  have henvOut : ∀ i, a.envOut now i = b.envOut now i := fun i => (h.voices i).envOut_eq now
  simp only [Block.outputs, hcount, hchActive, henvOut, h.mixOut, h.enc]

/-- Settles O15: the two steps take the same event, so they leave alike blocks, and alike blocks drive the ports alike. -/
theorem unreadVoiceFieldsAreUnobservable : Obligations.UnreadVoiceFieldsAreUnobservable := by
  intro s b h
  obtain ⟨t, c, hstep, hstep', halike⟩ : ∃ (t : State) (c : Block t.params), step s = .next t ∧
      step (s.withBlock b) = .next (t.withBlock c) ∧ t.block.Alike c := by
    cases hpending : s.pending with
    | nil => exact ⟨s, b, step_nil hpending, step_nil hpending, h⟩
    | cons e rest =>
      have hstep := step_cons hpending
      have hstep' := step_cons (s := s.withBlock b) hpending
      cases e with
      | cmd word now noise => exact ⟨_, _, hstep, hstep', h.blockExec (decode word) now noise⟩
      | pulse => exact ⟨_, _, hstep, hstep', h.blockExec .pulse s.now s.noise⟩
      | reset => exact ⟨_, _, hstep, hstep', .refl (Block.reset s.params)⟩
  exact ⟨t, c, hstep, hstep', halike, halike.outputs_eq⟩

end Sys2Proof.Machine
end

section
/-! What an instruction may read and write (10_state.md R33, R34, R36, R37, R40 to R42): the transitions of a voice, the writers of
each register, and the readers of the ports `now` and `noise_in`. -/

namespace Sys2Proof.Machine

variable {P : Params}

/-! ### Frames -/

theorem Block.SameButVoices.refl (b : Block P) : b.SameButVoices b := ⟨rfl, rfl, rfl, rfl⟩

theorem Block.SameButVoices.mapVoices (b : Block P) (f : Fin P.nv → Voice P → Voice P) : b.SameButVoices (b.mapVoices f) :=
  ⟨rfl, rfl, rfl, rfl⟩

theorem Block.SameButVoices.noteOn (b : Block P) (ch : BitVec 8) (note vel : BitVec 16) (now : Tick) :
    b.SameButVoices (b.noteOn ch note vel now) := by
  obtain hkept | ⟨c, n, -, hwritten⟩ := Block.noteOn_cases ch note vel now b
  · rw [hkept]; exact .refl b
  · rw [hwritten]; exact .mapVoices b _

theorem Block.SameButVoices.noteOff (b : Block P) (ch : BitVec 8) (note : BitVec 16) (now : Tick) :
    b.SameButVoices (b.noteOff ch note now) := by
  obtain hkept | ⟨i, -, -, hwritten⟩ := Block.noteOff_cases ch note now b
  · rw [hkept]; exact .refl b
  · rw [hwritten]; exact .mapVoices b _

theorem Block.SameButVoices.retuneOn (b : Block P) (ch : BitVec 8) (f : Voice P → Voice P) :
    b.SameButVoices (b.retuneOn ch f) := by
  rw [Block.retuneOn_eq_mapVoices]
  exact .mapVoices b _

@[simp] theorem Block.setChvol_voices (ch : BitVec 8) (volume : BitVec 16) (b : Block P) :
    (b.setChvol ch volume).voices = b.voices := by
  obtain h | ⟨c, h⟩ := Block.setChvol_cases ch volume b
  · rw [h]
  · rw [h, Block.updChan_voices]

@[simp] theorem Block.setWave_voices (ch : BitVec 8) (tag count : BitVec 16) (b : Block P) :
    (b.setWave ch tag count).voices = b.voices := by
  obtain h | ⟨c, w, h⟩ := Block.setWave_cases ch tag count b
  · rw [h]
  · rw [h, Block.updChan_voices]

/-! ### Transitions of a voice (R36) -/

/-- Voice `v` may become `w` under instruction `i` at tick `now` by the transitions of R36. -/
structure Voice.Moves (i : Instr) (now : Tick) (v w : Voice P) : Prop where
  sounding : w.sounding = true → v.sounding = true ∨ i.mnemonic = "NOTE_ON"
  releasing : w.releasing = true → v.releasing = true ∨ (v.sounding = true ∧ i.mnemonic = "NOTE_OFF")
  inactive : w.active = false → v.active = false ∨ i = .allOff ∨ ((i = .update ∨ i = .sampleTick) ∧ v.finished now = true)
  released : w.active = false → w.released = v.released

variable {i : Instr} {now : Tick} {v w : Voice P}

theorem Voice.Moves.refl (v : Voice P) : v.Moves i now v := ⟨.inl, .inl, .inl, fun _ => rfl⟩

/-- `ACTIVE` and `RELEASED` are all that a transition is about. -/
theorem Voice.Moves.of_flags_eq (h : v.Moves i now w) {w' : Voice P} (hactive : w'.active = w.active)
    (hreleased : w'.released = w.released) : v.Moves i now w' where
  sounding := by rw [Voice.sounding, hactive, hreleased]; exact h.sounding
  releasing := by rw [Voice.releasing, hactive, hreleased]; exact h.releasing
  inactive := by rw [hactive]; exact h.inactive
  released := by rw [hactive, hreleased]; exact h.released

theorem Voice.Moves.noteOn (hi : i.mnemonic = "NOTE_ON") (c : Fin P.nch) (entry : Channel) (n : Nat) (vel : BitVec 7) :
    v.Moves i now (v.noteOn c entry n vel now) where
  sounding := fun _ => .inr hi
  releasing := nofun
  inactive := nofun
  released := nofun

theorem Voice.Moves.noteOff (hi : i.mnemonic = "NOTE_OFF") (hv : v.sounding = true) : v.Moves i now (v.noteOff now) where
  sounding := fun _ => .inl hv
  releasing := fun _ => .inr ⟨hv, hi⟩
  inactive := .inl
  released := fun hoff => by
    have hoff' : v.active = false := hoff
    simp [Voice.sounding, hoff'] at hv

theorem Voice.Moves.allOff : v.Moves .allOff now { v with active := false } where
  sounding := nofun
  releasing := nofun
  inactive := fun _ => .inr (.inl rfl)
  released := fun _ => rfl

theorem Voice.Moves.retire (hi : i = .update ∨ i = .sampleTick) :
    v.Moves i now (if v.finished now then { v with active := false } else v) := by
  split
  case isTrue hfinished => exact ⟨nofun, nofun, fun _ => .inr (.inr ⟨hi, hfinished⟩), fun _ => rfl⟩
  case isFalse => exact .refl v

/-- Every instruction moves every voice of the pool by the transitions of R36. -/
theorem blockExec_moves (i : Instr) (now : Tick) (noise : Vector Q15 P.nv) (b : Block P) (j : Nat) (hj : j < P.nv) :
    (b.voices[j]).Moves i now (blockExec P i now noise b).voices[j] := by
  have hretuneOn : ∀ (ch : BitVec 8) (f : Voice P → Voice P), (∀ v, (f v).active = v.active ∧ (f v).released = v.released) →
      (b.voices[j]).Moves i now (b.retuneOn ch f).voices[j] := fun ch f hf => by
    rw [Block.retuneOn_eq_mapVoices, Block.mapVoices_getElem]
    split
    · exact (Voice.Moves.refl _).of_flags_eq (hf _).1 (hf _).2
    · exact .refl _
  cases i with
  | nop | reservedF3 | reservedF4F7 _ | reservedF8FF _ | setMvol _ | dsPush _ | dsStart | dsStop | dsSetVol _ | pulse =>
    exact .refl _
  | setChvol ch volume => simpa [blockExec] using .refl _
  | setWave ch tag count => simpa [blockExec] using .refl _
  | setAdsr ch _ _ _ _ | setAttack ch _ | setDecay ch _ | setSustain ch _ | setRelease ch _ =>
    exact hretuneOn ch _ fun _ => ⟨rfl, rfl⟩
  | noteOn ch note vel =>
    obtain hkept | ⟨c, n, -, hwritten⟩ := Block.noteOn_cases ch note vel now b
    · simpa [blockExec, hkept] using .refl _
    · simp only [blockExec, hwritten, Block.updVoice_getElem]
      split
      · exact .noteOn rfl c _ n _
      · exact .refl _
  | noteOff ch note =>
    obtain hkept | ⟨k, hk, hsounds, hwritten⟩ := Block.noteOff_cases ch note now b
    · simpa [blockExec, hkept] using .refl _
    · simp only [blockExec, hwritten, Block.updVoice_getElem]
      split
      case isTrue hjk => subst hjk; exact .noteOff rfl hsounds
      case isFalse => exact .refl _
  | allOff => simpa [blockExec] using .allOff
  | update => simpa [blockExec] using .retire (.inl rfl)
  | sampleTick =>
    have hretired : (b.voices[j]).Moves .sampleTick now (b.retire now).voices[j] := by
      rw [Block.retire_getElem]; exact .retire (.inr rfl)
    simp only [blockExec, Block.sampleTick, Block.emit_voices]
    rw [Block.advance_getElem]
    split
    · exact hretired.of_flags_eq rfl rfl
    · exact hretired

/-- Settles O16. -/
theorem voiceTransitionsAreTheListedOnes : Obligations.VoiceTransitionsAreTheListedOnes := by
  refine fun i s => ⟨_, exec_eq_next i s, fun j => ?_⟩
  obtain ⟨hsounding, hreleasing, hinactive, hreleased⟩ := blockExec_moves i s.now s.noise s.block j j.isLt
  exact ⟨hsounding, hreleasing, hinactive, hreleased⟩

/-! ### Writers of the registers (R37, R40 to R42) -/

/-- Instruction `i` may leave encoder registers `e'` in the place of `e` by the `Written by` column of R41. -/
structure Encoder.WrittenBy (i : Instr) (e e' : Encoder) : Prop where
  buffer : i.mnemonic ∉ ["DS_PUSH", "SAMPLE_TICK"] → e'.bufCur = e.bufCur ∧ e'.bufPrev = e.bufPrev
  err : i.mnemonic ≠ "PULSE" → e'.err = e.err
  phase : i.mnemonic ≠ "PULSE" → (i.mnemonic = "DS_START" → e.run = true) → e'.phase = e.phase
  vol : i.mnemonic ≠ "DS_SET_VOL" → e'.vol = e.vol
  run : i.mnemonic ∉ ["DS_START", "DS_STOP"] → e'.run = e.run ∧ e'.pwmEn = e.pwmEn
  bit : i.mnemonic ∉ ["PULSE", "DS_STOP"] → e'.bit = e.bit ∧ e'.pwmDuty = e.pwmDuty

theorem Encoder.WrittenBy.refl (e : Encoder) : e.WrittenBy i e :=
  ⟨fun _ => ⟨rfl, rfl⟩, fun _ => rfl, fun _ _ => rfl, fun _ => rfl, fun _ => ⟨rfl, rfl⟩, fun _ => ⟨rfl, rfl⟩⟩

theorem Encoder.WrittenBy.push (hi : i.mnemonic ∈ ["DS_PUSH", "SAMPLE_TICK"]) (x : Int) (e : Encoder) :
    e.WrittenBy i (e.push x) where
  buffer := fun hnot => absurd hi hnot
  err := fun _ => rfl
  phase := fun _ _ => rfl
  vol := fun _ => rfl
  run := fun _ => ⟨rfl, rfl⟩
  bit := fun _ => ⟨rfl, rfl⟩

/-- `DS_START` writes nothing while running (R236). -/
theorem Encoder.WrittenBy.start (e : Encoder) : e.WrittenBy .dsStart e.start := by
  unfold Encoder.start
  split
  case isTrue => exact .refl e
  case isFalse hstopped =>
    exact {
      buffer := fun _ => ⟨rfl, rfl⟩
      err := fun _ => rfl
      phase := fun _ hrunning => absurd (hrunning rfl) hstopped
      vol := fun _ => rfl
      run := fun hnot => absurd (by decide) hnot
      bit := fun _ => ⟨rfl, rfl⟩ }

theorem Encoder.WrittenBy.stop (e : Encoder) : e.WrittenBy .dsStop e.stop where
  buffer := fun _ => ⟨rfl, rfl⟩
  err := fun _ => rfl
  phase := fun _ _ => rfl
  vol := fun _ => rfl
  run := fun hnot => absurd (by decide) hnot
  bit := fun hnot => absurd (by decide) hnot

theorem Encoder.WrittenBy.setVol (volume : BitVec 16) (e : Encoder) :
    e.WrittenBy (.dsSetVol volume) { e with vol := encoderVolume volume } where
  buffer := fun _ => ⟨rfl, rfl⟩
  err := fun _ => rfl
  phase := fun _ _ => rfl
  vol := fun hnot => absurd rfl hnot
  run := fun _ => ⟨rfl, rfl⟩
  bit := fun _ => ⟨rfl, rfl⟩

theorem Encoder.WrittenBy.pulse (P : Params) (e : Encoder) : e.WrittenBy .pulse (e.pulse P) where
  buffer := fun _ => ⟨e.pulse_bufCur P, e.pulse_bufPrev P⟩
  err := fun hnot => absurd rfl hnot
  phase := fun hnot => absurd rfl hnot
  vol := fun _ => e.pulse_vol P
  run := fun _ => ⟨e.pulse_run P, e.pulse_pwmEn P⟩
  bit := fun hnot => absurd (by decide) hnot

/-- The mnemonics whose rules write no voice. -/
def voiceKeepers : List String :=
  ["NOP", "SET_MVOL", "SET_CHVOL", "SET_WAVE", "DS_PUSH", "DS_START", "DS_STOP", "DS_SET_VOL", "RESERVED_F3", "RESERVED_F4_F7",
    "RESERVED_F8_FF", "PULSE"]

/-- Instruction `i` may leave block `b` in the place of `a` by the `Written by` columns of R40 and R41 and the rules of the writers
of the pool and the channel table. -/
structure Block.WrittenBy (i : Instr) (a b : Block P) : Prop where
  voices : i.mnemonic ∈ voiceKeepers → b.voices = a.voices
  chans : i.mnemonic ∉ ["SET_CHVOL", "SET_WAVE"] → b.chans = a.chans
  mvol : i.mnemonic ≠ "SET_MVOL" → b.mvol = a.mvol
  mixOut : i.mnemonic ≠ "SAMPLE_TICK" → b.mixOut = a.mixOut
  enc : a.enc.WrittenBy i b.enc

variable {a b : Block P}

theorem Block.WrittenBy.refl (b : Block P) : b.WrittenBy i b :=
  ⟨fun _ => rfl, fun _ => rfl, fun _ => rfl, fun _ => rfl, .refl b.enc⟩

theorem Block.WrittenBy.of_sameButVoices (hi : i.mnemonic ∉ voiceKeepers) (h : a.SameButVoices b) : a.WrittenBy i b where
  voices := fun hkeeps => absurd hkeeps hi
  chans := fun _ => h.chans
  mvol := fun _ => h.mvol
  mixOut := fun _ => h.mixOut
  enc := by rw [h.enc]; exact .refl a.enc

theorem Block.WrittenBy.updChan (hi : i.mnemonic ∈ ["SET_CHVOL", "SET_WAVE"]) (c : Fin P.nch) (f : Channel → Channel) :
    b.WrittenBy i (b.updChan c f) where
  voices := fun _ => rfl
  chans := fun hnot => absurd hi hnot
  mvol := fun _ => rfl
  mixOut := fun _ => rfl
  enc := .refl b.enc

theorem Block.WrittenBy.updEnc {f : Encoder → Encoder} (h : b.enc.WrittenBy i (f b.enc)) : b.WrittenBy i (b.updEnc f) where
  voices := fun _ => rfl
  chans := fun _ => rfl
  mvol := fun _ => rfl
  mixOut := fun _ => rfl
  enc := h

theorem Block.WrittenBy.setMvol (volume : BitVec 16) : b.WrittenBy (.setMvol volume) (b.setMvol volume) where
  voices := fun _ => rfl
  chans := fun _ => rfl
  mvol := fun hnot => absurd rfl hnot
  mixOut := fun _ => rfl
  enc := .refl b.enc

theorem Block.WrittenBy.setChvol (ch : BitVec 8) (volume : BitVec 16) :
    b.WrittenBy (.setChvol ch volume) (b.setChvol ch volume) := by
  obtain hkept | ⟨c, hwritten⟩ := Block.setChvol_cases ch volume b
  · rw [hkept]; exact .refl b
  · rw [hwritten]; exact .updChan (by simp [Instr.mnemonic]) c _

theorem Block.WrittenBy.setWave (ch : BitVec 8) (tag count : BitVec 16) :
    b.WrittenBy (.setWave ch tag count) (b.setWave ch tag count) := by
  obtain hkept | ⟨c, w, hwritten⟩ := Block.setWave_cases ch tag count b
  · rw [hkept]; exact .refl b
  · rw [hwritten]; exact .updChan (by simp [Instr.mnemonic]) c _

theorem Block.WrittenBy.sampleTick (now : Tick) (noise : Vector Q15 P.nv) :
    b.WrittenBy .sampleTick (b.sampleTick now noise) where
  voices := fun hkeeps => absurd hkeeps (by decide)
  chans := fun _ => rfl
  mvol := fun _ => rfl
  mixOut := fun hnot => absurd rfl hnot
  enc := .push (by decide) _ b.enc

/-- Every instruction writes the registers that name it as their writer, and no others. -/
theorem blockExec_writtenBy (i : Instr) (now : Tick) (noise : Vector Q15 P.nv) (b : Block P) :
    b.WrittenBy i (blockExec P i now noise b) := by
  cases i with
  | nop | reservedF3 | reservedF4F7 _ | reservedF8FF _ => exact .refl b
  | noteOn ch note vel => exact .of_sameButVoices (by simp [Instr.mnemonic, voiceKeepers]) (.noteOn b ch note vel now)
  | noteOff ch note => exact .of_sameButVoices (by simp [Instr.mnemonic, voiceKeepers]) (.noteOff b ch note now)
  | allOff => exact .of_sameButVoices (by decide) (.mapVoices b fun _ v => { v with active := false })
  | update => exact .of_sameButVoices (by decide) (.mapVoices b _)
  | setAdsr ch _ _ _ _ | setAttack ch _ | setDecay ch _ | setSustain ch _ | setRelease ch _ =>
    exact .of_sameButVoices (by simp [Instr.mnemonic, voiceKeepers]) (.retuneOn b ch _)
  | setMvol volume => exact .setMvol volume
  | setChvol ch volume => exact .setChvol ch volume
  | setWave ch tag count => exact .setWave ch tag count
  | sampleTick => exact .sampleTick now noise
  | dsPush sample => exact .updEnc (.push (by simp [Instr.mnemonic]) _ b.enc)
  | dsStart => exact .updEnc (.start b.enc)
  | dsStop => exact .updEnc (.stop b.enc)
  | dsSetVol volume => exact .updEnc (f := fun e => { e with vol := encoderVolume volume }) (.setVol volume b.enc)
  | pulse => exact .updEnc (.pulse P b.enc)

/-- Settles O17. -/
theorem registersHaveOnlyTheirWriters : Obligations.RegistersHaveOnlyTheirWriters := by
  refine fun i s => ⟨_, exec_eq_next i s, ?_⟩
  obtain ⟨hvoices, hchans, hmvol, hmixOut, hbuffer, herr, hphase, hvol, hrun, hbit⟩ :=
    blockExec_writtenBy i s.now s.noise s.block
  exact ⟨hvoices, hchans, hmvol, hmixOut, hbuffer, herr, hphase, hvol, hrun, hbit⟩

/-! ### Readers of the ports `now` and `noise_in` (R33, R34) -/

/-- An instruction that is no reader of `NOW` leaves the same block at any tick (R33). -/
theorem blockExec_now_congr (h : i.mnemonic ∉ ["NOTE_ON", "NOTE_OFF", "UPDATE", "SAMPLE_TICK"]) (now now' : Tick)
    (noise : Vector Q15 P.nv) (b : Block P) : blockExec P i now noise b = blockExec P i now' noise b := by
  cases i with
  | noteOn _ _ _ | noteOff _ _ | update | sampleTick => simp [Instr.mnemonic] at h
  | nop | allOff | setMvol _ | setChvol _ _ | setAdsr _ _ _ _ _ | setAttack _ _ | setDecay _ _ | setSustain _ _
  | setRelease _ _ | setWave _ _ _ | dsPush _ | dsStart | dsStop | dsSetVol _ | reservedF3 | reservedF4F7 _
  | reservedF8FF _ | pulse => rfl

/-- Settles O18. -/
theorem onlyFourCommandsReadNow : Obligations.OnlyFourCommandsReadNow := by
  intro i s now h
  refine ⟨_, exec_eq_next i s, ?_⟩
  rw [exec_eq_next, blockExec_now_congr h s.now now]
  rfl

/-- Only the noise waveform reads the noise value (R188, R189). -/
theorem wave_noise_congr {n n' : Q15} (h : v.wave = .noise → n = n') : wave v n = wave v n' := by
  cases hw : v.wave with
  | noise => rw [h hw]
  | sine | square | saw | triangle => simp only [wave, hw]

/-- An inactive voice is left out of the mix, so its noise value is not read either (R212). -/
theorem voiceTerm_noise_congr {n n' : Q15} (h : v.active = true → v.wave = .noise → n = n') (vol : BitVec 4) (now : Tick) :
    voiceTerm v vol now n = voiceTerm v vol now n' := by
  obtain hon | hoff := Bool.eq_false_or_eq_true v.active
  · rw [voiceTerm, voiceTerm, wave_noise_congr (h hon)]
  · rw [voiceTerm_eq_none (.inl hoff), voiceTerm_eq_none (.inl hoff)]

/-- Retiring and advancing activate no voice and keep every waveform. -/
theorem Block.advance_retire_active_wave (now : Tick) (b : Block P) (j : Nat) (hj : j < P.nv)
    (h : ((b.retire now).advance.voices[j]).active = true) :
    (b.voices[j]).active = true ∧ ((b.retire now).advance.voices[j]).wave = (b.voices[j]).wave := by
  rw [Block.advance_getElem, Block.retire_getElem] at h ⊢
  cases hfinished : (b.voices[j]).finished now with
  | true => simp [hfinished] at h
  | false =>
    cases hactive : (b.voices[j]).active with
    | false => simp [hfinished, hactive] at h
    | true => simp [hactive]

/-- A mix depends on the noise values of the active noise voices only. -/
theorem Block.sampleTick_noise_congr {noise noise' : Vector Q15 P.nv}
    (h : ∀ j : Fin P.nv, (b.voices[j]).active = true → (b.voices[j]).wave = .noise → noise[j] = noise'[j]) (now : Tick) :
    b.sampleTick now noise = b.sampleTick now noise' := by
  have hmix : (b.retire now).advance.mix now noise = (b.retire now).advance.mix now noise' :=
    Block.mix_congr (a := (b.retire now).advance) (b := (b.retire now).advance) rfl fun j =>
      voiceTerm_noise_congr (fun hactive hnoise => by
        obtain ⟨hactive', hwave⟩ := Block.advance_retire_active_wave now b j j.isLt hactive
        exact h j hactive' (hwave.symm.trans hnoise)) _ now
  rw [Block.sampleTick, Block.sampleTick, hmix]

/-- No other instruction reads a noise value (R34). -/
theorem blockExec_noise_congr {noise noise' : Vector Q15 P.nv} (h : ∀ j : Fin P.nv, i = .sampleTick →
      (b.voices[j]).active = true → (b.voices[j]).wave = .noise → noise[j] = noise'[j]) (now : Tick) :
    blockExec P i now noise b = blockExec P i now noise' b := by
  cases i with
  | sampleTick => exact Block.sampleTick_noise_congr (fun j => h j rfl) now
  | nop | noteOn _ _ _ | noteOff _ _ | allOff | setMvol _ | setChvol _ _ | setAdsr _ _ _ _ _ | setAttack _ _ | setDecay _ _
  | setSustain _ _ | setRelease _ _ | setWave _ _ _ | update | dsPush _ | dsStart | dsStop | dsSetVol _ | reservedF3
  | reservedF4F7 _ | reservedF8FF _ | pulse => rfl

/-- Settles O19. -/
theorem noiseIsReadOnlyForNoiseVoices : Obligations.NoiseIsReadOnlyForNoiseVoices := by
  intro i s noise h
  refine ⟨_, exec_eq_next i s, ?_⟩
  rw [exec_eq_next, ← blockExec_noise_congr h]
  rfl

end Sys2Proof.Machine
end

section
/-! The status ports (10_state.md R44 to R46), and the range of the amplitude function (R151, R154) that the width of `env_out`
needs. -/

namespace Sys2Proof.Machine

open Sys2Proof.Laws

variable {P : Params}

/-! ### The amplitude function by stage (R151) -/

variable {v : Voice P} {now : Tick}

theorem env_attack (hsounds : v.released = false) (hel : v.el now < v.atk.toNat) :
    env v now = fdiv (v.base * v.el now) v.atk.toNat := by
  simp [env, Voice.stage, hsounds, hel]

theorem env_decay (hsounds : v.released = false) (hatk : v.atk.toNat ≤ v.el now) (hel : v.el now < v.atk.toNat + v.dec.toNat) :
    env v now = v.base - fdiv ((v.base - v.susLevel) * (v.el now - v.atk.toNat)) v.dec.toNat := by
  simp [env, Voice.stage, hsounds, hatk.not_gt, hel]

theorem env_sustain (hsounds : v.released = false) (hel : v.atk.toNat + v.dec.toNat ≤ v.el now) : env v now = v.susLevel := by
  have hatk : ¬ v.el now < v.atk.toNat := by omega
  simp [env, Voice.stage, hsounds, hatk, hel.not_gt]

theorem env_release (hreleased : v.released = true) (her : v.er now < v.rel.toNat) :
    env v now = fdiv (v.susLevel * (v.rel.toNat - v.er now)) v.rel.toNat := by
  simp [env, Voice.stage, hreleased, her]

theorem env_finished (hreleased : v.released = true) (her : v.rel.toNat ≤ v.er now) : env v now = 0 := by
  simp [env, Voice.stage, hreleased, her.not_gt]

/-- A floored fraction `k / n` of a level lies between 0 and the level. -/
theorem fraction_range {x k n : Int} (hx : 0 ≤ x) (hn : 0 < n) (hk : 0 ≤ k ∧ k ≤ n) :
    0 ≤ fdiv (x * k) n ∧ fdiv (x * k) n ≤ x :=
  ⟨fdiv_nonneg hn (mul_nonneg hx hk.1), fdiv_le_of_le_mul hn (mul_le_mul_of_nonneg_left hk.2 hx)⟩

theorem Voice.base_range (v : Voice P) : 0 ≤ v.base ∧ v.base ≤ one := by
  have hvel := v.vel.isLt
  rw [Voice.base, mul_comm]
  exact fraction_range (by decide) (by decide) (by omega)

theorem Voice.susLevel_range (hsus : v.sus.toNat ≤ 10) : 0 ≤ v.susLevel ∧ v.susLevel ≤ v.base :=
  fraction_range v.base_range.1 (by decide) (by omega)

/-- The amplitude lies between 0 and the base level (R154). -/
theorem env_range (hsus : v.sus.toNat ≤ 10) (now : Tick) : 0 ≤ env v now ∧ env v now ≤ v.base := by
  obtain ⟨hbase, -⟩ := v.base_range
  obtain ⟨hsusLo, hsusHi⟩ := v.susLevel_range hsus
  obtain hreleased | hsounds := Bool.eq_false_or_eq_true v.released
  · by_cases her : v.er now < v.rel.toNat
    · rw [env_release hreleased her]
      have hfraction := fraction_range (k := v.rel.toNat - v.er now) (n := v.rel.toNat) hsusLo (by omega) (by omega)
      omega
    · rw [env_finished hreleased (by omega)]
      omega
  · by_cases hatk : v.el now < v.atk.toNat
    · rw [env_attack hsounds hatk]
      exact fraction_range hbase (by omega) (by omega)
    · by_cases hdec : v.el now < v.atk.toNat + v.dec.toNat
      · rw [env_decay hsounds (by omega) hdec]
        have hfraction := fraction_range (x := v.base - v.susLevel) (k := v.el now - v.atk.toNat) (n := v.dec.toNat)
          (by omega) (by omega) (by omega)
        omega
      · rw [env_sustain hsounds (by omega)]
        omega

/-! ### The ports -/

variable {b : Block P}

/-- The pool's list holds its voices in index order. -/
theorem Block.voices_toList_eq_map (b : Block P) : b.voices.toList = (List.finRange P.nv).map fun i => b.voices[i] :=
  List.ext_getElem (by simp) fun i _ _ => by simp

theorem Block.activeCount_eq (b : Block P) :
    b.activeCount = ((List.finRange P.nv).filter fun i => (b.voices[i]).active).length := by
  rw [Block.activeCount, Block.voices_toList_eq_map, List.countP_map, List.countP_eq_length_filter]
  rfl

theorem Block.activeCount_le (b : Block P) : b.activeCount ≤ P.nv := by
  simpa [Block.activeCount] using List.countP_le_length (p := fun v : Voice P => v.active) (l := b.voices.toList)

/-- The count fits its 4-bit port: no pool has more than 15 voices (R6). -/
theorem Block.outputs_activeCount_toNat (b : Block P) (now : Tick) : (b.outputs now).activeCount.toNat = b.activeCount := by
  have hle := b.activeCount_le
  have hnv := P.valid.nv_le
  rw [Block.outputs, BitVec.toNat_ofNat, Nat.mod_eq_of_lt (by omega)]

theorem Block.chActive_iff (b : Block P) (c : Nat) :
    b.chActive c = true ↔ ∃ i : Fin P.nv, (b.voices[i]).active = true ∧ (b.voices[i]).ch.val = c := by
  simp [Block.chActive, Block.voices_toList_eq_map]

/-- A query for no channel reads 0 (R45): every voice is on a channel. -/
theorem Block.chActive_of_ge {c : Nat} (h : P.nch ≤ c) : b.chActive c = false := by
  rw [Bool.eq_false_iff, ne_eq, Block.chActive_iff]
  rintro ⟨i, -, hch⟩
  have hlt := (b.voices[i]).ch.isLt
  omega

theorem Block.outputs_chActive (b : Block P) (now : Tick) (c : Fin P.nch) :
    (b.outputs now).chActive[c] = b.chActive c := by
  simp [Block.outputs]

/-- An amplitude fits its 17-bit port (R46, R154). -/
theorem Block.Inv.outputs_envOut_toInt (h : b.Inv) (now : Tick) (i : Fin P.nv) :
    ((b.outputs now).envOut[i]).toInt = b.envOut now i := by
  have hport : (b.outputs now).envOut[i] = toQ15 (b.envOut now i) := by simp [Block.outputs]
  have hlevel : -one ≤ b.envOut now i ∧ b.envOut now i ≤ one := by
    obtain ⟨hlo, hhi⟩ := env_range (h.voices i).sus_le now
    obtain ⟨-, hbase⟩ := (b.voices[i]).base_range
    unfold Block.envOut one at *
    split <;> omega
  rw [hport, toQ15_toInt_level hlevel]

/-- Settles O60. -/
theorem statusPortsFollowTheState : Obligations.StatusPortsFollowTheState := by
  refine fun P b now h => ⟨?count, fun c => ?chActive, fun c hc => b.chActive_of_ge hc, fun i => ?envOut, rfl, rfl, rfl, rfl⟩
  case count => rw [Block.outputs_activeCount_toNat, Block.activeCount_eq]
  case chActive =>
    rw [Block.outputs_chActive, Block.chActive_iff]
    simp only [Fin.ext_iff]
  case envOut => exact h.outputs_envOut_toInt now i

end Sys2Proof.Machine
end

section
/-! A pulse and a command at one instant (20_memory.md R77): the ports put the pulse first, and the command is executed on what
the pulse left. -/

namespace Sys2Proof.Machine

variable {P : Params}

/-- Ports that are ready for a command are not in reset (R50). -/
theorem Ports.rst_of_cmdReady {p : Ports P} (h : p.cmdReady = true) : p.rst = false := by
  simp only [Ports.cmdReady, Bool.and_eq_true, Bool.not_eq_true'] at h
  exact h.1

/-- A strobe and an accepted command at one instant are two events, the pulse first (R77). -/
theorem Ports.events_of_pulse_cmd {p : Ports P} (hstrobe : p.pulseStb = true) (hvalid : p.cmdValid = true)
    (hready : p.cmdReady = true) : p.events = [.pulse, .cmd p.cmdWord p.now p.noiseIn] := by
  simp [Ports.events, Ports.accepts, Ports.rst_of_cmdReady hready, hstrobe, hvalid, hready]

theorem State.present_eq {s : State} (hnone : s.pending = []) (p : Ports s.params) :
    s.present p = { s with pending := p.events } := by rw [State.present, hnone, List.nil_append]

theorem State.pending_nil_eq {s : State} (hnone : s.pending = []) : { s with pending := [] } = s := by rw [← hnone]

/-- A pulse and then a command, the only events to come: the command runs on the state the pulse left. -/
theorem run_pulse_cmd {s : State} (hnone : s.pending = []) (word : Word) (now : Tick) (noise : Vector Q15 s.params.nv) :
    Sys2Proof.core.run 2 { s with pending := [.pulse, .cmd word now noise] } =
      exec (decode word) ((s.after .pulse).sample now noise) := by
  have hpulse : step { s with pending := [.pulse, .cmd word now noise] } =
      .next (State.after .pulse { s with pending := [.cmd word now noise] }) := step_cons (e := .pulse) rfl
  have hcmd := stepExecutesDecodedCommand (State.after .pulse { s with pending := [.cmd word now noise] }) word now noise
    [] _ rfl rfl
  have hdrained : ((s.after .pulse).sample now noise).pending = [] := hnone
  rw [core_run_succ 1 hpulse, core_run_one, hcmd]
  exact congrArg (exec (decode word)) (State.pending_nil_eq hdrained)

/-- Settles O9: the instant's events are the pulse and the command, and each of the two steps takes one of them. -/
theorem pulseComesBeforeCommand : Obligations.PulseComesBeforeCommand := by
  intro s p hnone hstrobe hvalid hready
  refine ⟨_, exec_eq_next .pulse s, ?_⟩
  rw [State.present_eq hnone, Ports.events_of_pulse_cmd hstrobe hvalid hready]
  exact run_pulse_cmd hnone p.cmdWord p.now p.noiseIn

end Sys2Proof.Machine
end

section
/-! Idempotent commands (20_memory.md R78): each shared operation repeats to no effect if the write it is given does, and the
commands R78 lists are such operations with such writes. -/

namespace Sys2Proof.Machine

variable {P : Params}

/-! ### The shared operations -/

theorem Block.mapVoices_idem {f : Fin P.nv → Voice P → Voice P} (hf : ∀ i v, f i (f i v) = f i v) (b : Block P) :
    (b.mapVoices f).mapVoices f = b.mapVoices f := by
  rw [Block.mapVoices_mapVoices]
  exact Block.mapVoices_congr fun j hj => hf ⟨j, hj⟩ b.voices[j]

/-- A loop that writes only the voices passing a test, whatever the write does to the test. -/
theorem Block.mapVoices_ite_idem {f : Voice P → Voice P} (hf : ∀ v, f (f v) = f v) (test : Voice P → Bool) (b : Block P) :
    (b.mapVoices fun _ v => if test v then f v else v).mapVoices (fun _ v => if test v then f v else v) =
      b.mapVoices fun _ v => if test v then f v else v := by
  refine Block.mapVoices_idem (fun _ v => ?_) b
  cases htest : test v with
  | true => simp [hf]
  | false => simp [htest]

theorem Block.retuneOn_idem {f : Voice P → Voice P} (hf : ∀ v, f (f v) = f v) (ch : BitVec 8) (b : Block P) :
    (b.retuneOn ch f).retuneOn ch f = b.retuneOn ch f := by
  simp only [Block.retuneOn_eq_mapVoices]
  exact Block.mapVoices_ite_idem hf (fun v => v.active && v.ch.val == ch.toNat) b

theorem Block.updChan_idem {f : Channel → Channel} (hf : ∀ e, f (f e) = f e) (c : Fin P.nch) (b : Block P) :
    (b.updChan c f).updChan c f = b.updChan c f := by
  have hchans : ((b.updChan c f).updChan c f).chans = (b.updChan c f).chans := Vector.ext fun d hd => by
    simp only [Block.updChan_getElem]
    split
    · exact hf _
    · rfl
  exact Block.ext_voices (fun _ _ => rfl) hchans rfl rfl rfl

theorem Block.updEnc_idem {f : Encoder → Encoder} (hf : ∀ e, f (f e) = f e) (b : Block P) :
    (b.updEnc f).updEnc f = b.updEnc f := congrArg (fun e => { b with enc := e }) (hf b.enc)

/-! ### The commands -/

theorem Block.allOff_idem (b : Block P) : b.allOff.allOff = b.allOff :=
  Block.mapVoices_idem (f := fun _ v => { v with active := false }) (fun _ _ => rfl) b

theorem Block.retire_idem (now : Tick) (b : Block P) : (b.retire now).retire now = b.retire now :=
  Block.mapVoices_ite_idem (f := fun v => { v with active := false }) (fun _ => rfl) (fun v => v.finished now) b

theorem Block.setChvol_idem (ch : BitVec 8) (volume : BitVec 16) (b : Block P) :
    (b.setChvol ch volume).setChvol ch volume = b.setChvol ch volume := by
  unfold Block.setChvol
  cases chan? P ch with
  | some c => exact Block.updChan_idem (fun _ => by rfl) c b
  | none => rfl

theorem Block.setWave_idem (ch : BitVec 8) (tag count : BitVec 16) (b : Block P) :
    (b.setWave ch tag count).setWave ch tag count = b.setWave ch tag count := by
  unfold Block.setWave
  cases chan? P ch with
  | some c =>
    cases waveTag? tag with
    | some w => exact Block.updChan_idem (fun _ => by rfl) c b
    | none => rfl
  | none => rfl

/-- The commands that R78 lists as idempotent, `UPDATE` at one tick. -/
def repeatableCommands : List String :=
  ["ALL_OFF", "DS_STOP", "SET_MVOL", "SET_CHVOL", "SET_WAVE", "DS_SET_VOL", "SET_ADSR", "SET_ATTACK", "SET_DECAY",
    "SET_SUSTAIN", "SET_RELEASE", "UPDATE"]

theorem blockExec_idem {i : Instr} (h : i.mnemonic ∈ repeatableCommands) (now : Tick) (noise : Vector Q15 P.nv) (b : Block P) :
    blockExec P i now noise (blockExec P i now noise b) = blockExec P i now noise b := by
  cases i with
  | allOff => exact Block.allOff_idem b
  | setMvol volume => rfl
  | setChvol ch volume => exact Block.setChvol_idem ch volume b
  | setWave ch tag count => exact Block.setWave_idem ch tag count b
  | setAdsr ch _ _ _ _ | setAttack ch _ | setDecay ch _ | setSustain ch _ | setRelease ch _ =>
    exact Block.retuneOn_idem (fun _ => by rfl) ch b
  | update => exact Block.retire_idem now b
  | dsStop | dsSetVol _ => exact Block.updEnc_idem (fun _ => by rfl) b
  | nop | noteOn _ _ _ | noteOff _ _ | sampleTick | dsPush _ | dsStart | reservedF3 | reservedF4F7 _ | reservedF8FF _ | pulse =>
    simp [Instr.mnemonic, repeatableCommands] at h

/-- Settles O21: the second execution finds the tick and the noise values of the first. -/
theorem idempotentCommands : Obligations.IdempotentCommands := by
  intro i s h
  refine ⟨blockExec s.params i s.now s.noise s.block, exec_eq_next i s, ?_⟩
  rw [exec_eq_next]
  exact congrArg (fun b => Host.Outcome.next (s.withBlock b)) (blockExec_idem h s.now s.noise s.block)

end Sys2Proof.Machine
end

section
/-! The command word (30_encoding.md): what the decoder reads from the word of each row (R90 to R93), which words the rows
cover (R95), and that no word is a `PULSE` (R94). -/

namespace Sys2Proof.Laws

/-! ### A word and its fields (R90) -/

theorem toNat_cw (op aux : BitVec 4) (ch : BitVec 8) (a b c : BitVec 16) : (cw op aux ch a b c).toNat =
    op.toNat * 2 ^ 60 + aux.toNat * 2 ^ 56 + ch.toNat * 2 ^ 48 + a.toNat * 2 ^ 32 + b.toNat * 2 ^ 16 + c.toNat := by
  rw [toNat_cw_nested]
  omega

/-- Every word is its fields put together. -/
theorem cw_fields (w : Word) : cw w.op w.aux w.ch w.a w.b w.c = w := by
  have := w.isLt
  apply BitVec.eq_of_toNat_eq
  rw [toNat_cw_nested]
  simp only [Word.op, Word.aux, Word.ch, Word.a, Word.b, Word.c, toNat_field]
  omega

/-- A word without a payload tells `op` and `aux`. -/
theorem cw_head_inj {op aux op' aux' : BitVec 4} :
    cw op aux 0 0 0 0 = cw op' aux' 0 0 0 0 ↔ op = op' ∧ aux = aux' := by
  constructor
  · intro h
    exact ⟨by simpa using congrArg Word.op h, by simpa using congrArg Word.aux h⟩
  · rintro ⟨rfl, rfl⟩
    rfl

theorem cw_and_cw (op aux op' aux' : BitVec 4) (ch ch' : BitVec 8) (a b c a' b' c' : BitVec 16) :
    cw op aux ch a b c &&& cw op' aux' ch' a' b' c' =
      cw (op &&& op') (aux &&& aux') (ch &&& ch') (a &&& a') (b &&& b') (c &&& c') := by
  simp only [cw, ← BitVec.and_append]

/-! ### The decoder on the word of each row (R91, R92, R93, R95) -/

theorem decodeExtended_of_aux_F4_F7 {w : Word} (hlow : 4 ≤ w.aux.toNat) (hhigh : w.aux.toNat < 8) :
    decodeExtended w = .reservedF4F7 (w.aux.extractLsb' 0 2) := by
  obtain h | h | h | h : w.aux.toNat = 4 ∨ w.aux.toNat = 5 ∨ w.aux.toNat = 6 ∨ w.aux.toNat = 7 := by omega
  all_goals simp only [decodeExtended, h]

theorem decodeExtended_of_aux_F8_FF {w : Word} (hlow : 8 ≤ w.aux.toNat) :
    decodeExtended w = .reservedF8FF (w.aux.extractLsb' 0 3) := by
  unfold decodeExtended
  split
  case h_9 => rfl
  all_goals omega

section

variable (aux : BitVec 4) (ch : BitVec 8) (a b c : BitVec 16)

theorem decode_cw_nop : decode (cw 0x0 aux ch a b c) = .nop := by simp [decode]
theorem decode_cw_noteOn : decode (cw 0x1 aux ch a b c) = .noteOn ch a b := by simp [decode]
theorem decode_cw_noteOff : decode (cw 0x2 aux ch a b c) = .noteOff ch a := by simp [decode]
theorem decode_cw_allOff : decode (cw 0x3 aux ch a b c) = .allOff := by simp [decode]
theorem decode_cw_setMvol : decode (cw 0x4 aux ch a b c) = .setMvol a := by simp [decode]
theorem decode_cw_setChvol : decode (cw 0x5 aux ch a b c) = .setChvol ch a := by simp [decode]
theorem decode_cw_setAdsr : decode (cw 0x6 aux ch a b c) = .setAdsr ch a b aux c := by simp [decode]
theorem decode_cw_setAttack : decode (cw 0x7 aux ch a b c) = .setAttack ch a := by simp [decode]
theorem decode_cw_setDecay : decode (cw 0x8 aux ch a b c) = .setDecay ch a := by simp [decode]
theorem decode_cw_setSustain : decode (cw 0x9 aux ch a b c) = .setSustain ch a := by simp [decode]
theorem decode_cw_setRelease : decode (cw 0xA aux ch a b c) = .setRelease ch a := by simp [decode]
theorem decode_cw_setWave : decode (cw 0xB aux ch a b c) = .setWave ch a b := by simp [decode]
theorem decode_cw_update : decode (cw 0xC aux ch a b c) = .update := by simp [decode]
theorem decode_cw_sampleTick : decode (cw 0xD aux ch a b c) = .sampleTick := by simp [decode]
theorem decode_cw_dsPush : decode (cw 0xE aux ch a b c) = .dsPush (b ++ c) := by simp [decode]

/-- Where `op` is `0xF`, `aux` tells the row. -/
theorem decode_cw_extended : decode (cw 0xF aux ch a b c) = decodeExtended (cw 0xF aux ch a b c) := by simp [decode]

theorem decode_cw_dsStart : decode (cw 0xF 0x0 ch a b c) = .dsStart := by simp [decode, decodeExtended]
theorem decode_cw_dsStop : decode (cw 0xF 0x1 ch a b c) = .dsStop := by simp [decode, decodeExtended]
theorem decode_cw_dsSetVol : decode (cw 0xF 0x2 ch a b c) = .dsSetVol a := by simp [decode, decodeExtended]
theorem decode_cw_reservedF3 : decode (cw 0xF 0x3 ch a b c) = .reservedF3 := by simp [decode, decodeExtended]

theorem decode_cw_reservedF4F7 (low : BitVec 2) : decode (cw 0xF (0b01#2 ++ low) ch a b c) = .reservedF4F7 low := by
  have hlow := low.isLt
  have haux : (0b01#2 ++ low).toNat = 4 + low.toNat := toNat_append_eq ..
  rw [decode_cw_extended, decodeExtended_of_aux_F4_F7 (by rw [aux_cw]; omega) (by rw [aux_cw]; omega), aux_cw,
    BitVec.extractLsb'_append_eq_right]

theorem decode_cw_reservedF8FF (low : BitVec 3) : decode (cw 0xF (0b1#1 ++ low) ch a b c) = .reservedF8FF low := by
  have haux : (0b1#1 ++ low).toNat = 8 + low.toNat := toNat_append_eq ..
  rw [decode_cw_extended, decodeExtended_of_aux_F8_FF (by rw [aux_cw]; omega), aux_cw, BitVec.extractLsb'_append_eq_right]

end

/-- The operand of `DS_PUSH` is its two halves. -/
theorem halves_append (sample : BitVec 32) : sample.extractLsb' 16 16 ++ sample.extractLsb' 0 16 = sample := by
  rw [BitVec.extractLsb'_append_extractLsb'_eq_extractLsb' (by rfl), BitVec.extractLsb'_eq_self]

/-- Settles O1: each encoder case puts a row's word together, from which the decoder reads that row's operands. -/
theorem decodeEncodeRoundTrip : Obligations.DecodeEncodeRoundTrip := by
  intro i hwf
  cases i with
  | nop => exact decode_cw_nop ..
  | noteOn ch note velocity => exact decode_cw_noteOn ..
  | noteOff ch note => exact decode_cw_noteOff ..
  | allOff => exact decode_cw_allOff ..
  | setMvol volume => exact decode_cw_setMvol ..
  | setChvol ch volume => exact decode_cw_setChvol ..
  | setAdsr ch attack decay sustain release => exact decode_cw_setAdsr ..
  | setAttack ch attack => exact decode_cw_setAttack ..
  | setDecay ch decay => exact decode_cw_setDecay ..
  | setSustain ch sustain => exact decode_cw_setSustain ..
  | setRelease ch release => exact decode_cw_setRelease ..
  | setWave ch tag harmonics => exact decode_cw_setWave ..
  | update => exact decode_cw_update ..
  | sampleTick => exact decode_cw_sampleTick ..
  | dsPush sample => rw [encode, decode_cw_dsPush, halves_append]
  | dsStart => exact decode_cw_dsStart ..
  | dsStop => exact decode_cw_dsStop ..
  | dsSetVol volume => exact decode_cw_dsSetVol ..
  | reservedF3 => exact decode_cw_reservedF3 ..
  | reservedF4F7 low => exact decode_cw_reservedF4F7 ..
  | reservedF8FF low => exact decode_cw_reservedF8FF ..
  | pulse => cases hwf

/-- Settles O3. -/
theorem commandWordFieldsAndUnusedFields : Obligations.CommandWordFieldsAndUnusedFields := by
  intro aux ch a b c
  exact ⟨fun op => toNat_cw op aux ch a b c, decode_cw_nop .., decode_cw_noteOn .., decode_cw_noteOff ..,
    decode_cw_allOff .., decode_cw_setMvol .., decode_cw_setChvol .., decode_cw_setAdsr .., decode_cw_setAttack ..,
    decode_cw_setDecay .., decode_cw_setSustain .., decode_cw_setRelease .., decode_cw_setWave .., decode_cw_update ..,
    decode_cw_sampleTick .., decode_cw_dsPush .., decode_cw_dsStart .., decode_cw_dsStop .., decode_cw_dsSetVol ..⟩

/-- Settles O4: each of the words is its row's word with the operands written out. -/
theorem writtenOutWordsDecode : Obligations.WrittenOutWordsDecode :=
  ⟨decode_cw_noteOn 0 0 69 64 0, decode_cw_noteOff 0 3 60 0 0, decode_cw_setAdsr 5 0 10 20 300, decode_cw_setWave 0 2 2 3 0,
    decode_cw_sampleTick 0 0 0 0 0, decode_cw_dsPush 0 0 0 0xFFFF 0x8000, decode_cw_dsSetVol 0 16384 0 0,
    decode_cw_reservedF8FF 0 0 0 0 7⟩

/-! ### No word is a `PULSE` (R94) -/

theorem decodeExtended_wf (w : Word) : (decodeExtended w).wf = true := by
  unfold decodeExtended
  split <;> rfl

/-- What the decoder reads is a command. -/
theorem decode_wf (w : Word) : (decode w).wf = true := by
  unfold decode
  split
  case h_16 => exact decodeExtended_wf w
  all_goals rfl

/-- Settles O5. -/
theorem commandPortNeverDecodesPulse : Obligations.CommandPortNeverDecodesPulse := by
  refine ⟨fun w hpulse => ?never, decode_cw_reservedF8FF 0 0 0 0 7⟩
  case never =>
    have hwf := decode_wf w
    rw [hpulse] at hwf
    cases hwf

/-! ### The rows as match and mask (R93, R95) -/

/-- What tells the rows apart: `op`, and `aux` where `op` is `0xF`, in a word that is 0 elsewhere. -/
def rowHead (w : Word) : Word := cw w.op (if w.op = 0xF then w.aux else 0) 0 0 0 0

/-- A row masks `op` whole and nothing below `aux`, and only rows of `op` `0xF` mask a bit of `aux`. -/
theorem commandRows_shape : ∀ r ∈ commandRows, r.mask = cw 0xF r.mask.aux 0 0 0 0 ∧
    r.pattern = cw r.pattern.op r.pattern.aux 0 0 0 0 ∧ (r.mask.aux = 0 ∨ r.pattern.op = 0xF) := by decide

theorem covers_iff {r : OpcodeRow} (hr : r ∈ commandRows) (w : Word) :
    r.covers w = true ↔ w.op = r.pattern.op ∧ w.aux &&& r.mask.aux = r.pattern.aux := by
  obtain ⟨hmask, hpattern, -⟩ := commandRows_shape r hr
  have hand : w &&& r.mask = cw w.op (w.aux &&& r.mask.aux) 0 0 0 0 := by
    conv_lhs => rw [← cw_fields w, hmask, cw_and_cw]
    rw [show w.op &&& 0xF = w.op from BitVec.and_allOnes]
    simp only [BitVec.ofNat_eq_ofNat, BitVec.and_zero]
  rw [OpcodeRow.covers, beq_iff_eq, hand, hpattern, cw_head_inj]
  simp

theorem covers_rowHead {r : OpcodeRow} (hr : r ∈ commandRows) (w : Word) : r.covers w = r.covers (rowHead w) := by
  rw [Bool.eq_iff_iff, covers_iff hr, covers_iff hr]
  obtain ⟨-, -, haux | hop⟩ := commandRows_shape r hr
  · simp [rowHead, haux]
  · simp +contextual [rowHead, hop]

/-- The decoder, too, picks the row by the head alone. -/
theorem mnemonic_decode_rowHead (w : Word) : (decode w).mnemonic = (decode (rowHead w)).mnemonic := by
  rw [decode, decode, rowHead, op_cw]
  split
  case h_16 =>
    have hop : w.op = 0xF := by
      have := w.op.isLt
      simp only [imp_false] at *
      exact BitVec.eq_of_toNat_eq (show w.op.toNat = 15 by omega)
    simp only [decodeExtended, hop, aux_cw, if_true]
    split <;> rfl
  all_goals rfl

/-- The mnemonics of the rows that cover a word. -/
def coveringRows (w : Word) : List String := (commandRows.filter fun r => r.covers w).map fun r => r.mnemonic

theorem coveringRows_rowHead (w : Word) : coveringRows w = coveringRows (rowHead w) :=
  congrArg (List.map OpcodeRow.mnemonic) (List.filter_congr fun _ hr => covers_rowHead hr w)

/-- The heads with `aux` 0: what every word of an `op` below `0xF` has. -/
theorem coveringRows_of_op : ∀ op : BitVec 4, coveringRows (cw op 0 0 0 0 0) = [(decode (cw op 0 0 0 0 0)).mnemonic] := by
  decide

/-- The heads with `op` `0xF`. -/
theorem coveringRows_of_aux :
    ∀ aux : BitVec 4, coveringRows (cw 0xF aux 0 0 0 0) = [(decode (cw 0xF aux 0 0 0 0)).mnemonic] := by
  decide

/-- Settles O2: the rows and the decoder tell two words apart by `op` and, under `0xF`, by `aux`, and each of those heads has
its one row. -/
theorem commandRowsCoverEachWordOnce : Obligations.CommandRowsCoverEachWordOnce := by
  intro w
  change coveringRows w = _
  rw [coveringRows_rowHead, mnemonic_decode_rowHead, rowHead]
  split
  case isTrue hop => rw [hop]; exact coveringRows_of_aux w.aux
  case isFalse => exact coveringRows_of_op w.op

end Sys2Proof.Laws
end

section
/-! `NOP` and the reserved words (30_encoding.md R95, 40_voice_control.md R120): no effect, and no other word of the command port
is one of them. -/

namespace Sys2Proof.Machine

open Sys2Proof.Laws

/-- The rows that are no command: the reserved ones, and the event that no word of the command port stands for (R94, R95). -/
def noCommand : List String := ["RESERVED_F3", "RESERVED_F4_F7", "RESERVED_F8_FF", "PULSE"]

theorem decode_of_op_zero {w : Word} (hop : w.op.toNat = 0) : decode w = .nop := by simp only [decode, hop]

theorem decode_of_op_F {w : Word} (hop : w.op.toNat = 0xF) : decode w = decodeExtended w := by simp only [decode, hop]

theorem decodeExtended_of_aux_F3 {w : Word} (haux : w.aux.toNat = 3) : decodeExtended w = .reservedF3 := by
  simp only [decodeExtended, haux]

/-- The words R95 reserves by `aux` do nothing. -/
theorem exec_decodeExtended_reserved {w : Word} (haux : 3 ≤ w.aux.toNat) (s : State) : exec (decodeExtended w) s = .next s := by
  obtain hthree | ⟨hlow, hhigh⟩ | hlarge : w.aux.toNat = 3 ∨ (4 ≤ w.aux.toNat ∧ w.aux.toNat < 8) ∨ 8 ≤ w.aux.toNat := by omega
  · rw [decodeExtended_of_aux_F3 hthree]; exact exec_eq_next_self rfl
  · rw [decodeExtended_of_aux_F4_F7 hlow hhigh]; exact exec_eq_next_self rfl
  · rw [decodeExtended_of_aux_F8_FF hlarge]; exact exec_eq_next_self rfl

/-- The heads with an `op` below `0xF` are commands. -/
theorem mnemonic_of_op : ∀ op : BitVec 4, op ≠ 0xF → (decode (cw op 0 0 0 0 0)).mnemonic ∉ noCommand := by decide

/-- The heads with `op` `0xF` and an `aux` below 3 are commands. -/
theorem mnemonic_of_aux : ∀ aux : BitVec 4, aux.toNat < 3 → (decode (cw 0xF aux 0 0 0 0)).mnemonic ∉ noCommand := by decide

theorem mnemonic_decode_of_command {w : Word} (h : ¬ (w.op.toNat = 0xF ∧ 3 ≤ w.aux.toNat)) :
    (decode w).mnemonic ∉ noCommand := by
  rw [mnemonic_decode_rowHead, rowHead]
  split
  case isTrue hop => rw [hop] at h ⊢; exact mnemonic_of_aux w.aux (by simpa using h)
  case isFalse hop => exact mnemonic_of_op w.op hop

/-- Settles O6: the reserved words are told by their head, and every other head is the head of a command. -/
theorem nopAndReservedWordsDoNothing : Obligations.NopAndReservedWordsDoNothing := by
  refine fun s => ⟨exec_eq_next_self rfl, exec_eq_next_self rfl, fun _ => exec_eq_next_self rfl, fun _ => exec_eq_next_self rfl,
    fun w hop => ?nop, fun w hop haux => ?reserved, fun w hw => ?command⟩
  case nop => rw [decode_of_op_zero hop]; exact exec_eq_next_self rfl
  case reserved => rw [decode_of_op_F hop]; exact exec_decodeExtended_reserved haux s
  case command => simpa [noCommand] using mnemonic_decode_of_command hw

end Sys2Proof.Machine
end

section
/-! `NOTE_ON` (40_voice_control.md R123, R124, R129): the voice it takes is the lowest free one, or the lowest of the oldest; what
it writes is that voice and no other, so the pool gains one active voice until it is full. -/

namespace Sys2Proof.Machine

open Sys2Proof.Laws

variable {P : Params}

/-! ### Which voice is taken (R124) -/

section

variable {pool : List (Voice P)}

theorem pickVoice_of_free (h : ∃ v ∈ pool, v.active = false) : pickVoice pool = pool.findIdx fun v => !v.active := by
  rw [pickVoice, List.findIdx?_eq_some_of_exists (by simpa using h)]

theorem pickVoice_of_full (h : ∀ v ∈ pool, v.active = true) : pickVoice pool = oldestVoice pool := by
  rw [pickVoice, List.findIdx?_eq_none_iff.2 fun v hv => by simp [h v hv]]

/-- The voice taken is free if any is, and every lower one is active. -/
theorem pickVoice_takes_lowest_free (h : ∃ v ∈ pool, v.active = false) (hlt : pickVoice pool < pool.length) :
    (pool[pickVoice pool]).active = false ∧ ∀ (j : Nat) (hj : j < pickVoice pool), (pool[j]).active = true := by
  obtain ⟨hfree, hbusy⟩ := (List.findIdx_eq hlt).1 (pickVoice_of_free h).symm
  exact ⟨by simpa using hfree, fun j hj => by simpa using hbusy j hj⟩

/-- The oldest voice starts no later than any, and every lower one starts later: it was passed over for a voice that starts
before it. -/
theorem oldestVoice_spec (hlt : oldestVoice pool < pool.length) :
    (∀ v ∈ pool, (pool[oldestVoice pool]).start.toNat ≤ v.start.toNat) ∧
      ∀ (j : Nat) (hj : j < oldestVoice pool), (pool[oldestVoice pool]).start.toNat < (pool[j]).start.toNat := by
  obtain ⟨holdest, hlower⟩ := (List.findIdx_eq hlt).1 rfl
  have hle : ∀ v ∈ pool, (pool[oldestVoice pool]).start.toNat ≤ v.start.toNat := by simpa using holdest
  refine ⟨hle, fun j hj => ?_⟩
  obtain ⟨w, hw, hearlier⟩ : ∃ w ∈ pool, w.start.toNat < (pool[j]).start.toNat := by simpa using hlower j hj
  exact (hle w hw).trans_lt hearlier

/-- Settles O23: with a free voice the first search answers, with none the second. -/
theorem pickVoiceTakesFreeElseOldest : Obligations.PickVoiceTakesFreeElseOldest := by
  refine fun P pool hne => ⟨pickVoice_lt hne, fun hfree => pickVoice_takes_lowest_free hfree _, fun hfull => ?full⟩
  case full =>
    simp only [pickVoice_of_full hfull]
    exact oldestVoice_spec (oldestVoice_lt hne)

end

/-! ### What is written (R123) -/

/-- The one voice a rewrite is for. -/
theorem Block.updVoice_voices_same (i : Fin P.nv) (f : Voice P → Voice P) (b : Block P) :
    (b.updVoice i f).voices[i] = f b.voices[i] := by
  rw [Fin.getElem_fin, Block.updVoice_getElem, if_pos rfl, Fin.getElem_fin]

theorem Block.updVoice_voices_of_ne {i j : Fin P.nv} (hne : j ≠ i) (f : Voice P → Voice P) (b : Block P) :
    (b.updVoice i f).voices[j] = b.voices[j] := by
  rw [Fin.getElem_fin, Block.updVoice_getElem, if_neg (Fin.val_ne_of_ne hne), Fin.getElem_fin]

theorem phaseInc_noteFreq_toNat (n : Nat) :
    (phaseInc P (noteFreq P n)).toNat = P.noteRom.getD n 0 * 2 ^ 32 / P.fsHz % 2 ^ 32 := by
  rw [phaseInc, BitVec.toNat_ofNat, noteFreq_toNat]

/-- Settles O22: in range `NOTE_ON` rewrites the picked voice alone. -/
theorem noteOnStartsOneVoice : Obligations.NoteOnStartsOneVoice := by
  intro s ch note vel
  refine ⟨fun hch hnote => ?inRange, fun hout => exec_eq_next_self (Block.noteOn_of_not_range hout vel s.now s.block)⟩
  case inRange =>
    obtain ⟨i, hi⟩ : ∃ i : Fin s.params.nv, i.val = pickVoice s.block.voices.toList := ⟨⟨_, s.block.pickVoice_lt_nv⟩, rfl⟩
    have hwritten := Block.noteOn_of_range hch hnote vel s.now s.block
    rw [← hi] at hwritten
    refine ⟨s.block.noteOn ch note vel s.now, i, exec_eq_next .., hi, ?_⟩
    rw [hwritten, Block.updVoice_voices_same]
    exact ⟨rfl, rfl, rfl, noteFreq_toNat _, velocity_toNat _, rfl, rfl, rfl, rfl, rfl, rfl, rfl, rfl,
      phaseInc_noteFreq_toNat _, rfl, fun j hj => Block.updVoice_voices_of_ne hj .., .mapVoices ..⟩

/-! ### The count of active voices (R44, R129) -/

/-- Rewriting a voice to an active one adds one to the count, unless the voice was active before. -/
theorem Block.activeCount_updVoice {i : Nat} (hi : i < P.nv) {f : Voice P → Voice P} (hf : ∀ v, (f v).active = true)
    (b : Block P) :
    (b.updVoice i f).activeCount = b.activeCount - (if (b.voices[i]).active then 1 else 0) + 1 := by
  rw [Block.activeCount, Block.updVoice_toList i f b hi, List.countP_set (by simpa using hi), Block.voices_toList_getElem,
    hf, if_pos rfl, Block.activeCount]

theorem Block.activeCount_eq_nv_iff (b : Block P) : b.activeCount = P.nv ↔ ∀ v ∈ b.voices.toList, v.active = true := by
  rw [Block.activeCount, ← List.countP_eq_length, Vector.length_toList]

/-- Making the picked voice active adds one active voice to a pool that is not full and keeps a full one full. -/
theorem Block.activeCount_updVoice_pickVoice {f : Voice P → Voice P} (hf : ∀ v, (f v).active = true) (b : Block P) :
    (b.updVoice (pickVoice b.voices.toList) f).activeCount = min (b.activeCount + 1) P.nv := by
  have hi := b.pickVoice_lt_nv
  rw [Block.activeCount_updVoice hi hf]
  by_cases hfree : ∃ v ∈ b.voices.toList, v.active = false
  · have hcount : b.activeCount ≠ P.nv := mt b.activeCount_eq_nv_iff.1 (by simpa using hfree)
    have hle := b.activeCount_le
    have hpicked := (pickVoice_takes_lowest_free hfree (by rwa [Vector.length_toList])).1
    rw [Block.voices_toList_getElem] at hpicked
    rw [hpicked, if_neg (by decide)]
    omega
  · have hfull : ∀ v ∈ b.voices.toList, v.active = true := by simpa using hfree
    have hcount := b.activeCount_eq_nv_iff.2 hfull
    have hnv := P.valid.nv_pos
    rw [if_pos (hfull _ (by simp))]
    omega

theorem Block.activeCount_noteOn {ch : BitVec 8} {note : BitVec 16} (hch : ch.toNat < P.nch) (hnote : note.toNat ≤ 127)
    (vel : BitVec 16) (now : Tick) (b : Block P) :
    (b.noteOn ch note vel now).activeCount = min (b.activeCount + 1) P.nv := by
  rw [Block.noteOn_of_range hch hnote]
  exact b.activeCount_updVoice_pickVoice fun _ => rfl

/-- Settles O24: `NOTE_ON` makes the picked voice active. -/
theorem poolNeverExceedsItsSize : Obligations.PoolNeverExceedsItsSize := by
  refine fun s => ⟨s.block.activeCount_le, fun ch note vel hch hnote => ⟨_, exec_eq_next (.noteOn ch note vel) s, ?count⟩⟩
  case count => exact Block.activeCount_noteOn hch hnote ..

end Sys2Proof.Machine
end

section
/-! `NOTE_OFF` (40_voice_control.md R126, R127): it looks for a voice by channel and frequency, and releases the lowest it finds. -/

namespace Sys2Proof.Machine

open Sys2Proof.Laws

variable {P : Params} {b : Block P}

/-! ### The search -/

theorem Voice.plays_noteFreq_iff (v : Voice P) (c : Fin P.nch) (n : Nat) : v.plays c (noteFreq P n) = true ↔
    v.active = true ∧ v.released = false ∧ v.ch.val = c.val ∧ v.freq.toNat = P.noteRom.getD n 0 := by
  rw [← noteFreq_toNat, BitVec.toNat_inj]
  simp [Voice.plays, Voice.sounding, Fin.ext_iff, and_assoc]

section

variable {c : Fin P.nch} {f : BitVec 14}

theorem Block.findPlaying_eq_some {i : Fin P.nv} (hplays : (b.voices[i]).plays c f = true)
    (hlower : ∀ j < i, ¬ (b.voices[j]).plays c f = true) : findPlaying c f b.voices.toList = some i.val := by
  refine List.findIdx?_eq_some_iff_getElem.2 ⟨by simp, by simpa using hplays, fun j hj => ?_⟩
  simpa using hlower ⟨j, hj.trans i.isLt⟩ hj

theorem Block.findPlaying_eq_none (hnone : ∀ i : Fin P.nv, ¬ (b.voices[i]).plays c f = true) :
    findPlaying c f b.voices.toList = none := by
  refine List.findIdx?_eq_none_iff.2 fun v hv => ?_
  obtain ⟨j, hj, rfl⟩ := (b.mem_voices_toList v).1 hv
  simpa using hnone ⟨j, hj⟩

end

/-! ### The command -/

section

variable {ch : BitVec 8} {note : BitVec 16}

/-- In range `NOTE_OFF` rewrites the lowest match alone. -/
theorem Block.noteOff_of_match (hch : ch.toNat < P.nch) (hnote : note.toNat ≤ 127) {i : Fin P.nv}
    (hplays : (b.voices[i]).plays ⟨ch.toNat, hch⟩ (noteFreq P note.toNat) = true)
    (hlower : ∀ j < i, ¬ (b.voices[j]).plays ⟨ch.toNat, hch⟩ (noteFreq P note.toNat) = true) (now : Tick) :
    b.noteOff ch note now = b.updVoice i (Voice.noteOff now) := by
  rw [Block.noteOff_of_range hch hnote, Block.findPlaying_eq_some hplays hlower]

/-- With no match, or an operand out of range, `NOTE_OFF` leaves the block. -/
theorem Block.noteOff_of_no_match (hnone : ∀ (hch : ch.toNat < P.nch) (i : Fin P.nv),
      ¬ (b.voices[i]).plays ⟨ch.toNat, hch⟩ (noteFreq P note.toNat) = true) (now : Tick) : b.noteOff ch note now = b := by
  by_cases hrange : ch.toNat < P.nch ∧ note.toNat ≤ 127
  · obtain ⟨hch, hnote⟩ := hrange
    rw [Block.noteOff_of_range hch hnote, Block.findPlaying_eq_none (hnone hch)]
  · exact Block.noteOff_of_not_range hrange now b

end

/-- Settles O25: what the search tests is what the rule asks of a voice, so it finds the lowest match or none. -/
theorem noteOffReleasesLowestMatch : Obligations.NoteOffReleasesLowestMatch := by
  intro s ch note plays
  have hplays : ∀ (hch : ch.toNat < s.params.nch) (i : Fin s.params.nv),
      (s.block.voices[i]).plays ⟨ch.toNat, hch⟩ (noteFreq s.params note.toNat) = true ↔ plays i :=
    fun hch i => Voice.plays_noteFreq_iff ..
  refine ⟨fun hch hnote i hi hlower => ?lowest, fun hnone => exec_eq_next_self ?none,
    fun hout => exec_eq_next_self (Block.noteOff_of_not_range hout s.now s.block)⟩
  case lowest =>
    have hwritten := Block.noteOff_of_match hch hnote ((hplays hch i).2 hi) (fun j hj => mt (hplays hch j).1 (hlower j hj)) s.now
    refine ⟨s.block.noteOff ch note s.now, exec_eq_next .., ?_⟩
    rw [hwritten]
    exact ⟨Block.updVoice_voices_same .., fun j hj => Block.updVoice_voices_of_ne hj .., .mapVoices ..⟩
  case none => exact Block.noteOff_of_no_match (fun hch i => mt (hplays hch i).1 (hnone i)) s.now

/-- Settles O26: of the note `NOTE_OFF` reads the frequency only. -/
theorem aliasedNotesReleaseAlike : Obligations.AliasedNotesReleaseAlike := by
  intro s ch a b ha hb hrom
  have hfreq : noteFreq s.params a.toNat = noteFreq s.params b.toNat := congrArg (BitVec.ofNat 14) hrom
  have hblock : s.block.noteOff ch a s.now = s.block.noteOff ch b s.now := by
    by_cases hch : ch.toNat < s.params.nch
    · rw [Block.noteOff_of_range hch ha, Block.noteOff_of_range hch hb, hfreq]
    · rw [Block.noteOff_of_not_range fun h => hch h.1, Block.noteOff_of_not_range fun h => hch h.1]
  rw [exec_eq_next, exec_eq_next]
  exact congrArg (fun c => Host.Outcome.next (s.withBlock c)) hblock

end Sys2Proof.Machine
end

section
/-! `ALL_OFF` and the volume setters (40_voice_control.md R128, R130, R131): each writes one field and nothing else. -/

namespace Sys2Proof.Machine

open Sys2Proof.Laws

variable {P : Params}

theorem Block.allOff_activeCount (b : Block P) : b.allOff.activeCount = 0 := by
  refine List.countP_eq_zero.2 fun v hv => ?_
  obtain ⟨j, hj, rfl⟩ := (b.allOff.mem_voices_toList v).1 hv
  simp

/-- Settles O27. -/
theorem allOffSilencesThePool : Obligations.AllOffSilencesThePool := fun s =>
  ⟨s.block.allOff, exec_eq_next .allOff s, s.block.allOff_activeCount, fun i => by simp, .mapVoices ..⟩

theorem Block.setChvol_of_lt {ch : BitVec 8} (hch : ch.toNat < P.nch) (volume : BitVec 16) (b : Block P) :
    b.setChvol ch volume = b.updChan ⟨ch.toNat, hch⟩ fun e => { e with vol := level10 volume } := by
  rw [Block.setChvol, chan?_of_lt hch]

theorem Block.setChvol_of_not_lt {ch : BitVec 8} (hch : ¬ ch.toNat < P.nch) (volume : BitVec 16) (b : Block P) :
    b.setChvol ch volume = b := by
  rw [Block.setChvol, chan?_of_not_lt hch]

/-- Settles O28: each setter is one write of a clamped operand. -/
theorem volumeSettersClampToTen : Obligations.VolumeSettersClampToTen := by
  intro s ch volume
  refine ⟨⟨s.block.setMvol volume, exec_eq_next .., level10_toNat volume, rfl⟩, fun hch => ?inRange,
    fun hch => exec_eq_next_self (Block.setChvol_of_not_lt hch volume s.block)⟩
  case inRange =>
    have hwritten := Block.setChvol_of_lt hch volume s.block
    refine ⟨s.block.setChvol ch volume, exec_eq_next .., ?_⟩
    rw [hwritten]
    refine ⟨?volume, ?entry, fun d hd => ?others, rfl⟩
    case volume => simp
    case entry => simp
    case others => simp [hd]

end Sys2Proof.Machine
end

section
/-! The amplitude function (41_envelope.md R151 to R154, R163): its value in each stage, the levels where the stages meet, its
range, its direction within a stage, and its independence of a common shift of the ticks. -/

namespace Sys2Proof.Machine

open Sys2Proof.Laws

variable {P : Params} {v : Voice P} {now : Tick}

/-! ### Stages and elapsed times -/

theorem Voice.el_eq (v : Voice P) (now : Tick) : (v.el now : Int) = ((now.toNat : Int) - v.start.toNat) % 2 ^ 32 :=
  elapsed_eq now v.start

theorem Voice.er_eq (v : Voice P) (now : Tick) : (v.er now : Int) = ((now.toNat : Int) - v.relTick.toNat) % 2 ^ 32 :=
  elapsed_eq now v.relTick

theorem Voice.stage_eq_attack_iff : v.stage now = .attack ↔ v.released = false ∧ v.el now < v.atk.toNat := by
  unfold Voice.stage
  split_ifs <;> simp_all

theorem Voice.stage_eq_decay_iff : v.stage now = .decay ↔
    v.released = false ∧ v.atk.toNat ≤ v.el now ∧ v.el now < v.atk.toNat + v.dec.toNat := by
  unfold Voice.stage
  split_ifs <;> simp_all

theorem Voice.stage_eq_release_iff : v.stage now = .release ↔ v.released = true ∧ v.er now < v.rel.toNat := by
  unfold Voice.stage
  split_ifs <;> simp_all

/-! ### The value in each stage (R151) and where the stages meet (R152, R153) -/

/-- Settles O30: the elapsed times are the differences of the ticks modulo `2^32`, and each clause is the stage's own equation. -/
theorem envelopeFormulaPerStage : Obligations.EnvelopeFormulaPerStage := by
  intro P v now base sus el er
  have hel : el = v.el now := (v.el_eq now).symm
  have her : er = v.er now := (v.er_eq now).symm
  rw [hel, her]
  refine ⟨fun hreleased h => env_release hreleased ?_, fun hreleased h => env_finished hreleased ?_,
    fun hsounds h => env_attack hsounds ?_, fun hsounds h h' => env_decay hsounds ?_ ?_, fun hsounds h => env_sustain hsounds ?_⟩
  all_goals omega

/-- Settles O31: the fraction of the stage elapsed is 0 or the whole there. -/
theorem envelopeLevelsAtStageBounds : Obligations.EnvelopeLevelsAtStageBounds := by
  refine fun P v now => ⟨fun hsounds hel hatk => ?attackStart, fun hsounds hel hdec => ?decayStart,
    fun hsounds hel hdec => env_sustain hsounds (by omega), fun hreleased her hrel => ?releaseStart,
    fun hreleased her => env_finished hreleased her⟩
  case attackStart => rw [env_attack hsounds (by omega), hel, Nat.cast_zero, mul_zero, zero_fdiv]
  case decayStart => rw [env_decay hsounds (by omega) (by omega), hel, sub_self, mul_zero, zero_fdiv, sub_zero]
  case releaseStart =>
    rw [env_release hreleased (by omega), her, Nat.cast_zero, sub_zero, mul_fdiv_cancel _ (by omega)]

/-! ### The range (R154) -/

/-- Only the full velocity reaches `ONE`: the floor loses the rest. -/
theorem Voice.base_eq_one_iff (v : Voice P) : v.base = one ↔ v.vel.toNat = 127 := by
  have hvel := v.vel.isLt
  unfold Voice.base fdiv one
  omega

theorem Voice.base_of_vel_zero (h : v.vel.toNat = 0) : v.base = 0 := by
  rw [Voice.base, h, Nat.cast_zero, zero_mul, zero_fdiv]

theorem Voice.susLevel_of_sus_zero (h : v.sus.toNat = 0) : v.susLevel = 0 := by
  rw [Voice.susLevel, h, Nat.cast_zero, mul_zero, zero_fdiv]

/-- The decay takes off the base level a fraction of what lies above the sustain level. -/
theorem susLevel_le_env_of_decay (hsus : v.sus.toNat ≤ 10) (h : v.stage now = .decay) : v.susLevel ≤ env v now := by
  obtain ⟨hsounds, hatk, hel⟩ := Voice.stage_eq_decay_iff.1 h
  obtain ⟨-, hbase⟩ := v.susLevel_range hsus
  rw [env_decay hsounds hatk hel]
  have hfraction := fraction_range (x := v.base - v.susLevel) (k := v.el now - v.atk.toNat) (n := v.dec.toNat)
    (by omega) (by omega) (by omega)
  omega

/-- The release leaves a fraction of the sustain level. -/
theorem env_le_susLevel_of_release (hsus : v.sus.toNat ≤ 10) (h : v.stage now = .release) : env v now ≤ v.susLevel := by
  obtain ⟨hreleased, her⟩ := Voice.stage_eq_release_iff.1 h
  obtain ⟨hlevel, -⟩ := v.susLevel_range hsus
  rw [env_release hreleased her]
  exact (fraction_range hlevel (by omega) (by omega)).2

/-- A voice struck with velocity 0 is silent: the amplitude lies between 0 and a base level of 0. -/
theorem env_of_vel_zero (hsus : v.sus.toNat ≤ 10) (h : v.vel.toNat = 0) : env v now = 0 := by
  obtain ⟨hlo, hhi⟩ := env_range hsus now
  rw [Voice.base_of_vel_zero h] at hhi
  exact le_antisymm hhi hlo

/-- Settles O32 from the ranges of the two levels and of the amplitude, whole and by stage. -/
theorem envelopeStaysInRange : Obligations.EnvelopeStaysInRange := by
  intro P v now hsus
  obtain ⟨hlevelLo, hlevelHi⟩ := v.susLevel_range hsus
  obtain ⟨henvLo, henvHi⟩ := env_range hsus now
  exact ⟨hlevelLo, hlevelHi, v.base_range.2, v.base_eq_one_iff, henvLo, henvHi, susLevel_le_env_of_decay hsus,
    env_le_susLevel_of_release hsus, env_of_vel_zero hsus, Voice.susLevel_of_sus_zero⟩

/-! ### The direction within a stage (R152, R153) -/

/-- A floored fraction of a level grows with its numerator. -/
theorem fraction_mono {x k k' n : Int} (hx : 0 ≤ x) (hn : 0 < n) (hk : k ≤ k') : fdiv (x * k) n ≤ fdiv (x * k') n :=
  fdiv_le_fdiv hn (mul_le_mul_of_nonneg_left hk hx)

section

variable {later : Tick}

theorem env_mono_of_attack (h : v.stage now = .attack) (h' : v.stage later = .attack) (hle : v.el now ≤ v.el later) :
    env v now ≤ env v later := by
  obtain ⟨hsounds, hel⟩ := Voice.stage_eq_attack_iff.1 h
  obtain ⟨-, hel'⟩ := Voice.stage_eq_attack_iff.1 h'
  rw [env_attack hsounds hel, env_attack hsounds hel']
  exact fraction_mono v.base_range.1 (by omega) (by omega)

theorem env_anti_of_decay (hsus : v.sus.toNat ≤ 10) (h : v.stage now = .decay) (h' : v.stage later = .decay)
    (hle : v.el now ≤ v.el later) : env v later ≤ env v now := by
  obtain ⟨hsounds, hatk, hel⟩ := Voice.stage_eq_decay_iff.1 h
  obtain ⟨-, hatk', hel'⟩ := Voice.stage_eq_decay_iff.1 h'
  obtain ⟨-, hbase⟩ := v.susLevel_range hsus
  rw [env_decay hsounds hatk hel, env_decay hsounds hatk' hel']
  exact sub_le_sub_left (fraction_mono (by omega) (by omega) (by omega)) v.base

theorem env_anti_of_release (hsus : v.sus.toNat ≤ 10) (h : v.stage now = .release) (h' : v.stage later = .release)
    (hle : v.er now ≤ v.er later) : env v later ≤ env v now := by
  obtain ⟨hreleased, her⟩ := Voice.stage_eq_release_iff.1 h
  obtain ⟨-, her'⟩ := Voice.stage_eq_release_iff.1 h'
  obtain ⟨hlevel, -⟩ := v.susLevel_range hsus
  rw [env_release hreleased her, env_release hreleased her']
  exact fraction_mono hlevel (by omega) (by omega)

end

/-- Settles O33: within a stage the amplitude is a floored fraction of a level, or what such a fraction leaves of one. -/
theorem envelopeIsMonotoneInEachStage : Obligations.EnvelopeIsMonotoneInEachStage := fun _ _ _ _ hsus hstage =>
  ⟨fun h => env_mono_of_attack h (hstage ▸ h), fun h => env_anti_of_decay hsus h (hstage ▸ h),
    fun h => env_anti_of_release hsus h (hstage ▸ h)⟩

/-! ### Rollover (R163) -/

/-- The voice with both its ticks shifted. -/
def Voice.shift (d : Tick) (v : Voice P) : Voice P := { v with start := v.start + d, relTick := v.relTick + d }

theorem Voice.shift_el (v : Voice P) (now d : Tick) : (v.shift d).el (now + d) = v.el now := elapsed_add_add ..

theorem Voice.shift_er (v : Voice P) (now d : Tick) : (v.shift d).er (now + d) = v.er now := elapsed_add_add ..

theorem Voice.shift_stage (v : Voice P) (now d : Tick) : (v.shift d).stage (now + d) = v.stage now := by
  rw [Voice.stage, Voice.shift_el, Voice.shift_er]
  rfl

/-- Settles O34: the amplitude reads the ticks through the elapsed times only. -/
theorem envelopeIsRolloverSafe : Obligations.EnvelopeIsRolloverSafe := by
  intro P v now d
  change env (v.shift d) (now + d) = env v now
  rw [env, Voice.shift_stage, Voice.shift_el, Voice.shift_er]
  rfl

end Sys2Proof.Machine
end

section
/-! The envelope setters (41_envelope.md R155 to R159, 70_reset_and_hazards.md R292): each is one loop over the active voices of a
channel, which it rewrites and forgets. -/

namespace Sys2Proof.Machine

open Sys2Proof.Laws

variable {P : Params}

/-- In range or not, the loop rewrites the active voices whose channel is the operand's number, and no other. -/
theorem Block.retuneOn_voices (ch : BitVec 8) (f : Voice P → Voice P) (b : Block P) (i : Fin P.nv) :
    (b.retuneOn ch f).voices[i] =
      if (b.voices[i]).active = true ∧ (b.voices[i]).ch.val = ch.toNat then f b.voices[i] else b.voices[i] := by
  simp [Block.retuneOn_eq_mapVoices]

/-- Settles O35: `SET_ADSR` is the loop with a write of the four envelope fields. -/
theorem setAdsrRetunesActiveVoices : Obligations.SetAdsrRetunesActiveVoices := fun s ch a d r sus =>
  ⟨fun _ => ⟨s.block.setAdsr ch a d sus r, level10 sus, exec_eq_next .., level10_toNat sus, .retuneOn ..,
      fun i => Block.retuneOn_voices ch _ s.block i⟩,
    fun hch => exec_eq_next_self (Block.retuneOn_of_not_lt hch _ s.block)⟩

/-- What R156 to R159 say of a single setter: an instruction that is the loop with write `f` applies `f` to the active voices on
the channel, and changes nothing else. -/
theorem exec_retuneOn (i : Instr) (s : State) {ch : BitVec 8} {f : Voice s.params → Voice s.params}
    (h : blockExec s.params i s.now s.noise s.block = s.block.retuneOn ch f) :
    ∃ b : Block s.params, exec i s = .next (s.withBlock b) ∧ s.block.SameButVoices b ∧ ∀ j : Fin s.params.nv,
      ((s.block.voices[j]).active = true ∧ (s.block.voices[j]).ch.val = ch.toNat → b.voices[j] = f s.block.voices[j]) ∧
      (¬ ((s.block.voices[j]).active = true ∧ (s.block.voices[j]).ch.val = ch.toNat) → b.voices[j] = s.block.voices[j]) := by
  refine ⟨s.block.retuneOn ch f, h ▸ exec_eq_next i s, .retuneOn .., fun j => ⟨fun hon => ?on, fun hoff => ?off⟩⟩
  case on => rw [Block.retuneOn_voices, if_pos hon]
  case off => rw [Block.retuneOn_voices, if_neg hoff]

/-- Settles O36: each setter is the loop with its own one-field write. -/
theorem singleSettersRetuneActiveVoices : Obligations.SingleSettersRetuneActiveVoices := by
  intro s ch x on
  refine ⟨fun _ => ?inRange, fun hch => ?outOfRange⟩
  case inRange =>
    have hattack := exec_retuneOn (.setAttack ch x) s rfl
    have hdecay := exec_retuneOn (.setDecay ch x) s rfl
    obtain ⟨b, hexec, hsame, hvoices⟩ := exec_retuneOn (.setSustain ch x) s rfl
    have hrelease := exec_retuneOn (.setRelease ch x) s rfl
    exact ⟨hattack, hdecay, ⟨b, level10 x, hexec, level10_toNat x, hsame, hvoices⟩, hrelease⟩
  case outOfRange =>
    have hkept : ∀ f, s.block.retuneOn ch f = s.block := fun f => Block.retuneOn_of_not_lt hch f s.block
    exact ⟨exec_eq_next_self (hkept _), exec_eq_next_self (hkept _), exec_eq_next_self (hkept _), exec_eq_next_self (hkept _)⟩

/-- On a channel with no active voice the loop finds nothing to rewrite (R155 (b), R292). -/
theorem Block.retuneOn_of_idle {b : Block P} {ch : BitVec 8} (h : b.chActive ch.toNat = false) (f : Voice P → Voice P) :
    b.retuneOn ch f = b := by
  have hidle : ¬ ∃ i : Fin P.nv, (b.voices[i]).active = true ∧ (b.voices[i]).ch.val = ch.toNat := by
    rw [← Block.chActive_iff, h]
    decide
  rw [Block.retuneOn_eq_mapVoices]
  refine Block.mapVoices_id _ _ fun j hj => if_neg fun hon => hidle ⟨⟨j, hj⟩, ?_⟩
  simpa using hon

/-- Settles O37: the five setters are loops over that channel. -/
theorem settersForgetIdleChannels : Obligations.SettersForgetIdleChannels := by
  intro s ch a d r sus hidle
  have hkept : ∀ f, s.block.retuneOn ch f = s.block := Block.retuneOn_of_idle hidle
  exact ⟨exec_eq_next_self (hkept _), exec_eq_next_self (hkept _), exec_eq_next_self (hkept _), exec_eq_next_self (hkept _),
    exec_eq_next_self (hkept _)⟩

end Sys2Proof.Machine
end

section
/-! `UPDATE` (41_envelope.md R160, R161): it retires the releasing voices whose release time is up, which are silent (R153), so no
mix hears it (R212). -/

namespace Sys2Proof.Machine

open Sys2Proof.Laws

variable {P : Params} {v : Voice P} {now : Tick}

/-! ### Which voices are retired -/

theorem Voice.finished_iff : v.finished now = true ↔ v.active = true ∧ v.released = true ∧ v.rel.toNat ≤ v.er now := by
  simp [Voice.finished, Voice.releasing, Voice.er, and_assoc]

/-- The same on the ticks themselves (R160). -/
theorem Voice.finished_iff_ticks : v.finished now = true ↔ v.active = true ∧ v.released = true ∧
    (v.rel.toNat : Int) ≤ ((now.toNat : Int) - v.relTick.toNat) % 2 ^ 32 := by
  rw [Voice.finished_iff, ← Voice.er_eq, Int.ofNat_le]

theorem Block.retire_voices (now : Tick) (b : Block P) (i : Fin P.nv) :
    (b.retire now).voices[i] =
      if (b.voices[i]).finished now = true then { b.voices[i] with active := false } else b.voices[i] :=
  Block.retire_getElem ..

/-- Settles O38: `UPDATE` is one pass of `retire`, whose test is the one the rule writes out. -/
theorem updateRetiresFinishedVoices : Obligations.UpdateRetiresFinishedVoices := by
  refine fun s => ⟨s.block.retire s.now, exec_eq_next .update s, .mapVoices .., fun i => ?_⟩
  simp only [← Voice.finished_iff_ticks]
  exact Block.retire_voices ..

/-! ### Retirement is silent -/

theorem env_of_finished (h : v.finished now = true) : env v now = 0 := by
  obtain ⟨-, hreleased, her⟩ := Voice.finished_iff.1 h
  exact env_finished hreleased her

/-- A retired voice is left out of the mix because it is inactive, and was left out before because it was silent. -/
theorem Block.retire_termOf (now : Tick) (noise : Vector Q15 P.nv) (b : Block P) (i : Fin P.nv) :
    (b.retire now).termOf now noise i = b.termOf now noise i := by
  cases hfinished : (b.voices[i]).finished now with
  | true =>
    have hretired : ((b.retire now).voices[i]).active = false := by rw [Block.retire_voices, if_pos hfinished]
    rw [Block.termOf, Block.termOf, voiceTerm_eq_none (.inl hretired),
      voiceTerm_eq_none (.inr (.inr (env_of_finished hfinished)))]
  | false =>
    have hkept : (b.retire now).voices[i] = b.voices[i] := by
      rw [Block.retire_voices, if_neg (Bool.eq_false_iff.1 hfinished)]
    simp only [Block.termOf, hkept, Block.retire_chans]

/-- Settles O39: retirement keeps every voice's term and the master volume. -/
theorem retirementIsInaudible : Obligations.RetirementIsInaudible := fun _ b now noise =>
  ⟨Block.mix_congr (a := b.retire now) (b := b) rfl (b.retire_termOf now noise), fun _ => env_of_finished⟩

end Sys2Proof.Machine
end

section
/-! The plain waveforms (42_oscillator.md R183 to R186): each reads top bits of the phase, that is a quotient of its number. -/

namespace Sys2Proof.Machine

open Sys2Proof.Laws

variable (P : Params) (p : BitVec 32)

/-- The bits of a phase from `lo` to the top are a quotient: there is no higher field to cut off. -/
theorem toNat_topField {lo len : Nat} (h : len + lo = 32) : (p.extractLsb' lo len).toNat = p.toNat / 2 ^ lo := by
  have hlt : p.toNat / 2 ^ lo < 2 ^ len := by
    rw [Nat.div_lt_iff_lt_mul (Nat.two_pow_pos lo), ← pow_add, h]
    exact p.isLt
  rw [toNat_field, Nat.mod_eq_of_lt hlt]

theorem sine_eq : sine P p = P.sineRom.getD (p.toNat / 2 ^ 24) 0 := by
  rw [sine, toNat_topField p rfl]

theorem saw_eq : saw p = (p.toNat / 2 ^ 16 : Nat) - one := by
  rw [saw, toNat_topField p rfl]

section

variable {p}

theorem square_of_crossing (h : p.toNat = 0 ∨ p.toNat = 2 ^ 31) : square p = 0 := if_pos h

theorem square_of_first_half (h : 0 < p.toNat) (h' : p.toNat < 2 ^ 31) : square p = one := by
  rw [square, if_neg (by omega), if_pos h']

theorem square_of_second_half (h : 2 ^ 31 < p.toNat) : square p = -one := by
  rw [square, if_neg (by omega), if_neg (by omega)]

theorem tri_of_first_half (h : p.toNat < 2 ^ 31) : tri p = (p.toNat / 2 ^ 15 : Nat) - one := by
  rw [tri, toNat_topField p rfl, if_pos (by omega)]

theorem tri_of_second_half (h : 2 ^ 31 ≤ p.toNat) : tri p = 3 * one - (p.toNat / 2 ^ 15 : Nat) := by
  rw [tri, toNat_topField p rfl, if_neg (by omega)]

end

/-- Settles O40: the value of each generator in each part of the period. -/
theorem plainWaveformValues : Obligations.PlainWaveformValues := fun P p =>
  ⟨sine_eq P p, square_of_crossing, square_of_first_half, square_of_second_half, saw_eq p, tri_of_first_half,
    tri_of_second_half⟩

/-! ### The range (R187) -/

/-- Inside the table the sine is an entry, past its end it would be 0. -/
theorem sine_range : -one ≤ sine P p ∧ sine P p ≤ one := by
  rw [sine, List.getD_eq_getElem?_getD]
  cases hentry : P.sineRom[(p.extractLsb' 24 8).toNat]? with
  | none => simp [one]
  | some x => exact P.valid.sineRom_range x (List.mem_of_getElem? hentry)

theorem square_range : -one ≤ square p ∧ square p ≤ one := by
  unfold square one
  split_ifs <;> omega

theorem saw_range : -one ≤ saw p ∧ saw p ≤ one := by
  have hp := p.isLt
  rw [saw_eq, one]
  omega

theorem tri_range : -one ≤ tri p ∧ tri p ≤ one := by
  have hp := p.isLt
  obtain hfirst | hsecond := Nat.lt_or_ge p.toNat (2 ^ 31)
  · rw [tri_of_first_half hfirst, one]
    omega
  · rw [tri_of_second_half hsecond, one]
    omega

end Sys2Proof.Machine
end

section
/-! The harmonics variant (42_oscillator.md R190, R191): its sum grows by one partial a count, and partial `k` is at most `ONE/k`
rounded away from 0, which bounds the sum and its quotient by the count. -/

namespace Sys2Proof.Machine

open Sys2Proof.Laws

variable (P : Params) (w : WaveTag) (H : Nat) (p : BitVec 32)

/-! ### The sum, partial by partial -/

@[simp] theorem partialSum_zero : partialSum P w 0 p = 0 := rfl

theorem partialSum_succ : partialSum P w (H + 1) p =
    partialSum P w H p + if partialSummed w (H + 1) then partialTerm P p (H + 1) else 0 := by
  rw [partialSum, List.range'_concat, one_mul, Nat.add_comm 1 H, List.filter_append, List.map_append, List.sum_append,
    ← partialSum]
  cases hsummed : partialSummed w (H + 1) <;> simp [hsummed]

theorem partialSummed_eq_false_iff (k : Nat) : partialSummed w k = false ↔ w = .triangle ∧ k % 2 = 0 := by
  simp [partialSummed]

/-- A tag matters to the partials only by the ones it leaves out. -/
theorem harm_congr {w w' : WaveTag} (h : partialSummed w = partialSummed w') : harm P w H p = harm P w' H p := by
  rw [harm, harm, partialSum, partialSum, h]

theorem partialTerm_eq (k : Nat) :
    partialTerm P p k = P.sineRom.getD (k * p.toNat % 2 ^ 32 / 2 ^ 24) 0 / (k : Int) := by
  rw [partialTerm, sine_eq, BitVec.toNat_ofNat, fdiv]

theorem partialTerm_one : partialTerm P p 1 = sine P p := by
  rw [partialTerm, one_mul, BitVec.ofNat_toNat, BitVec.setWidth_eq, Nat.cast_one, fdiv_one]

/-- The first partial is the sine, and no tag leaves it out. -/
theorem partialSum_one : partialSum P w 1 p = sine P p := by
  rw [partialSum_succ, partialSum_zero, zero_add, zero_add, partialTerm_one, if_pos (by simp [partialSummed])]

theorem harm_one : harm P w 1 p = sine P p := by
  rw [harm, if_neg (lt_irrefl 1), partialSum_one]

theorem harm_of_one_lt {H : Nat} (h : 1 < H) : harm P w H p = fdiv (partialSum P w H p) H := if_pos h

/-- Settles O42: the step of the sum, its quotient, and the tags that leave out nothing. -/
theorem harmonicsSumSinePartials : Obligations.HarmonicsSumSinePartials := by
  refine fun P w H p => ⟨partialSum_zero P w p, ?step, harm_of_one_lt P w p, harm_one P w p, harm_congr P H p rfl,
    harm_congr P H p rfl⟩
  case step =>
    have hterm := partialTerm_eq P p (H + 1)
    rw [Nat.cast_succ] at hterm
    rw [partialSum_succ, hterm]
    simp only [← partialSummed_eq_false_iff]
    cases partialSummed w (H + 1) <;> rfl

/-! ### The range (R191) -/

/-- Partial `k` is at most `c` either way as soon as `c` is at least `ONE/k`. -/
theorem partialTerm_range {k : Nat} {c : Int} (hk : 0 < (k : Int)) (hc : one ≤ c * k) :
    -c ≤ partialTerm P p k ∧ partialTerm P p k ≤ c := by
  obtain ⟨hlo, hhi⟩ := sine_range P (BitVec.ofNat 32 (k * p.toNat))
  exact ⟨le_fdiv_of_mul_le hk (by rw [neg_mul]; omega), fdiv_le_of_le_mul hk (hhi.trans hc)⟩

/-- From two partials on the sum is within `ONE + ONE/2` for the first two and `10923 = ONE/3`, rounded up, for each later one. -/
theorem partialSum_range {H : Nat} (h : 2 ≤ H) :
    -(49152 + 10923 * (H - 2 : Int)) ≤ partialSum P w H p ∧ partialSum P w H p ≤ 49152 + 10923 * (H - 2 : Int) := by
  induction H, h using Nat.le_induction with
  | base =>
    have hfirst := sine_range P p
    have hsecond := partialTerm_range P p (k := 1 + 1) (c := 16384) (by omega) (by unfold one; omega)
    rw [partialSum_succ, partialSum_one]
    unfold one at hfirst
    split <;> omega
  | succ H hH ih =>
    have hnext := partialTerm_range P p (k := H + 1) (c := 10923) (by omega) (by unfold one; omega)
    rw [partialSum_succ]
    split <;> omega

theorem harm_range {H : Nat} (h : 1 ≤ H) : -one ≤ harm P w H p ∧ harm P w H p ≤ one := by
  obtain rfl | hmany := Nat.eq_or_lt_of_le h
  · rw [harm_one]
    exact sine_range P p
  · have hsum := partialSum_range P w p hmany
    rw [harm_of_one_lt P w p hmany]
    unfold one
    exact ⟨le_fdiv_of_mul_le (by omega) (by omega), fdiv_le_of_le_mul (by omega) (by omega)⟩

/-- The sum of up to `HMAX <= 15` partials fits 19 signed bits. -/
theorem partialSum_fits_accumulator {H : Nat} (h : 1 ≤ H) (hH : H ≤ 15) :
    -2 ^ 18 ≤ partialSum P w H p ∧ partialSum P w H p < 2 ^ 18 := by
  obtain rfl | hmany := Nat.eq_or_lt_of_le h
  · have hsine := sine_range P p
    rw [partialSum_one]
    unfold one at hsine
    omega
  · have hsum := partialSum_range P w p hmany
    omega

/-- Settles O43: both bounds follow from the one on the sum; a single harmonic is the sine. -/
theorem harmonicsStayInRange : Obligations.HarmonicsStayInRange := by
  intro P w H p h hH
  obtain ⟨hlo, hhi⟩ := harm_range P w p h
  exact ⟨hlo, hhi, partialSum_fits_accumulator P w p h hH⟩

end Sys2Proof.Machine
end

section
/-! A voice's sample (42_oscillator.md R187 to R189, R191): the noise value, the harmonics variant or a plain generator, each of
which stays in `[-ONE, ONE]`. -/

namespace Sys2Proof.Machine

open Sys2Proof.Laws

variable {P : Params} {v : Voice P} (noise : Q15)

/-! ### Where the sample comes from -/

theorem wave_of_noise (h : v.wave = .noise) : wave v noise = noiseSample noise := by rw [wave, h]

theorem wave_of_sine (h : v.wave = .sine) : wave v noise = pitched v (sine P v.phase) := by rw [wave, h]

theorem wave_of_square (h : v.wave = .square) : wave v noise = pitched v (square v.phase) := by rw [wave, h]

theorem wave_of_saw (h : v.wave = .saw) : wave v noise = pitched v (saw v.phase) := by rw [wave, h]

theorem wave_of_triangle (h : v.wave = .triangle) : wave v noise = pitched v (tri v.phase) := by rw [wave, h]

theorem pitched_plain (h : v.harm.toNat = 0) (plain : Int) : pitched v plain = plain :=
  if_pos (BitVec.toNat_inj.1 h)

theorem pitched_harm (h : v.harm.toNat ≠ 0) (plain : Int) : pitched v plain = harm P v.wave v.harm.toNat v.phase :=
  if_neg fun hzero => h (by rw [hzero]; rfl)

/-- The sample of a voice that is not noise is `pitched` of a plain value in range. -/
theorem wave_of_pitched (h : v.wave ≠ .noise) :
    ∃ plain : Int, wave v noise = pitched v plain ∧ -one ≤ plain ∧ plain ≤ one := by
  cases hwave : v.wave with
  | sine => exact ⟨_, wave_of_sine noise hwave, sine_range ..⟩
  | square => exact ⟨_, wave_of_square noise hwave, square_range _⟩
  | saw => exact ⟨_, wave_of_saw noise hwave, saw_range _⟩
  | triangle => exact ⟨_, wave_of_triangle noise hwave, tri_range _⟩
  | noise => exact absurd hwave h

/-! ### The range -/

theorem noiseSample_range : -one ≤ noiseSample noise ∧ noiseSample noise ≤ one := clampLevel_range _

/-- A level replaced by the harmonics variant, or not, is a level. -/
theorem pitched_range {plain : Int} (h : -one ≤ plain ∧ plain ≤ one) :
    -one ≤ pitched v plain ∧ pitched v plain ≤ one := by
  by_cases hzero : v.harm.toNat = 0
  · rwa [pitched_plain hzero]
  · rw [pitched_harm hzero]
    exact harm_range P v.wave v.phase (by omega)

theorem wave_range (v : Voice P) : -one ≤ wave v noise ∧ wave v noise ≤ one := by
  by_cases hnoise : v.wave = .noise
  · rw [wave_of_noise noise hnoise]
    exact noiseSample_range noise
  · obtain ⟨plain, hwave, hplain⟩ := wave_of_pitched noise hnoise
    rw [hwave]
    exact pitched_range hplain

/-- Settles O41: where the sample comes from, by waveform and harmonic count. -/
theorem voiceSampleFollowsItsWave : Obligations.VoiceSampleFollowsItsWave := by
  refine fun P v noise => ⟨fun hnoise => ?noise, fun hpitched hharm => ?variant, fun hharm => ?plain, wave_range noise v⟩
  case noise => exact (wave_of_noise noise hnoise).trans (clampLevel_eq _)
  case variant =>
    obtain ⟨plain, hwave, -⟩ := wave_of_pitched noise hpitched
    rw [hwave, pitched_harm hharm]
  case plain =>
    have hplain := pitched_plain hharm
    exact ⟨fun h => (wave_of_sine noise h).trans (hplain _), fun h => (wave_of_square noise h).trans (hplain _),
      fun h => (wave_of_saw noise h).trans (hplain _), fun h => (wave_of_triangle noise h).trans (hplain _)⟩

end Sys2Proof.Machine
end

section
/-! `SET_WAVE` (42_oscillator.md R195): one write of one channel, ignored whole when it selects no channel or no waveform. -/

namespace Sys2Proof.Machine

open Sys2Proof.Laws

variable {P : Params} {ch : BitVec 8} {tag : BitVec 16}

theorem Block.setWave_of_range (hch : ch.toNat < P.nch) {w : WaveTag} (hw : waveTag? tag = some w) (count : BitVec 16)
    (b : Block P) : b.setWave ch tag count =
      b.updChan ⟨ch.toNat, hch⟩ fun e => { e with wave := w, harm := harmonics P count } := by
  rw [Block.setWave, chan?_of_lt hch, hw]

theorem Block.setWave_of_not_range (h : ¬ (ch.toNat < P.nch ∧ tag.toNat ≤ 4)) (count : BitVec 16) (b : Block P) :
    b.setWave ch tag count = b := by
  by_cases hch : ch.toNat < P.nch
  · rw [Block.setWave, chan?_of_lt hch, waveTag?_of_not_le fun htag => h ⟨hch, htag⟩]
  · rw [Block.setWave, chan?_of_not_lt hch]

/-- Settles O44: in range `SET_WAVE` is one write of the tag selected and a clamped count. -/
theorem setWaveWritesTheChannel : Obligations.SetWaveWritesTheChannel := by
  refine fun s ch tag count => ⟨fun hch htag => ?inRange, fun hout => exec_eq_next_self (Block.setWave_of_not_range hout ..)⟩
  case inRange =>
    obtain ⟨w, hw, hcode⟩ := waveTag?_of_le htag
    refine ⟨s.block.setWave ch tag count, exec_eq_next .., ?_⟩
    rw [Block.setWave_of_range hch hw]
    refine ⟨?wave, ?harm, ?volume, fun d hd => ?others, rfl⟩
    case wave => simpa using hcode
    case harm => simp
    case volume => simp
    case others => simp [hd]

end Sys2Proof.Machine
end

section
/-! The mix (43_mixer.md R212 to R216): the terms of a block are those of its contributing voices, each a level scaled at most by
tenths; a mix is their clamped average, scaled by tenths. -/

namespace Sys2Proof.Machine

open Sys2Proof.Laws

variable {P : Params} (now : Tick) (noise : Vector Q15 P.nv) (b : Block P)

/-! ### Which voices contribute, and what (R212, R213) -/

/-- What R212 asks of a voice before it counts it. -/
def Voice.contributes (v : Voice P) : Bool := v.active && v.freq != 0 && env v now != 0

/-- The indices of the contributing voices, in order. -/
def Block.contributors : List (Fin P.nv) := (List.finRange P.nv).filter fun i => (b.voices[i]).contributes now

/-- Voice `i`'s sample at its amplitude, before any channel volume. -/
def Block.level (i : Fin P.nv) : Int := fdiv (env b.voices[i] now * wave b.voices[i] noise[i]) one

/-- What voice `i` adds to the sum when it contributes. -/
def Block.term (i : Fin P.nv) : Int := chvol P (b.chans[(b.voices[i]).ch]).vol (b.level now noise i)

theorem Voice.contributes_iff (v : Voice P) :
    v.contributes now = true ↔ v.active = true ∧ v.freq ≠ 0 ∧ env v now ≠ 0 := by
  simp [Voice.contributes, and_assoc]

theorem Block.termOf_eq (i : Fin P.nv) : b.termOf now noise i =
    if (b.voices[i]).contributes now = true then some (b.term now noise i) else none := by
  simp only [Voice.contributes_iff]
  rfl

/-- The terms are the terms of the contributing voices and of no other. -/
theorem Block.terms_eq_map : b.terms now noise = (b.contributors now).map (b.term now noise) := by
  rw [Block.terms_eq, List.ofFn_eq_map, List.filterMap_map, Block.contributors, ← List.filterMap_eq_filter,
    List.map_filterMap]
  refine List.filterMap_congr fun i _ => ?_
  rw [Function.comp_apply, id, Block.termOf_eq, Option.guard, apply_ite (Option.map (b.term now noise))]
  rfl

theorem chvol_of_not_applied (h : P.mixAppliesChvol = false) (vol : BitVec 4) (t : Int) : chvol P vol t = t := by
  simp [chvol, h]

theorem chvol_of_applied (h : P.mixAppliesChvol = true) (vol : BitVec 4) (t : Int) :
    chvol P vol t = fdiv (t * vol.toNat) 10 := if_pos h

/-- Without the parameter no term has a channel register in it. -/
theorem Block.terms_of_not_applied (h : P.mixAppliesChvol = false) :
    b.terms now noise = (b.contributors now).map (b.level now noise) := by
  rw [Block.terms_eq_map]
  exact List.map_congr_left fun i _ => chvol_of_not_applied h ..

theorem Block.terms_of_applied (h : P.mixAppliesChvol = true) : b.terms now noise =
    (b.contributors now).map fun i => fdiv (b.level now noise i * (b.chans[(b.voices[i]).ch]).vol.toNat) 10 := by
  rw [Block.terms_eq_map]
  exact List.map_congr_left fun i _ => chvol_of_applied h ..

/-- Settles O29: the parameter decides between the two forms of a term, and the first one names no channel. -/
theorem channelVolumeActsOnlyByParameter : Obligations.ChannelVolumeActsOnlyByParameter := by
  refine fun P b now noise => ⟨fun hoff => ⟨b.terms_of_not_applied now noise hoff, fun chans => ?tableUnread⟩,
    b.terms_of_applied now noise⟩
  case tableUnread =>
    rw [Block.mix, Block.mix, Block.terms_of_not_applied now noise _ hoff, Block.terms_of_not_applied now noise _ hoff]
    rfl

/-! ### Average and scale (R214) -/

@[simp] theorem mixScale_nil (mvol : BitVec 4) : mixScale mvol [] = 0 := by
  rw [mixScale, mixLevel_nil, zero_mul, zero_fdiv]

theorem mixLevel_of_ne_nil {terms : List Int} (h : terms ≠ []) :
    mixLevel terms = clampLevel (fdiv terms.sum terms.length) :=
  if_neg fun hlength => h (List.eq_nil_of_length_eq_zero hlength)

/-- Settles O46: the terms are those of the contributors, and the two branches of the average. -/
theorem mixAveragesTheContributors : Obligations.MixAveragesTheContributors := by
  intro P b now noise contributors level term
  have hterms : b.terms now noise = contributors.map term := b.terms_eq_map now noise
  rw [Block.mix, hterms]
  refine ⟨fun hnone => ?silent, fun hsome => ?average⟩
  case silent => rw [List.eq_nil_of_length_eq_zero hnone, List.map_nil, mixScale_nil]
  case average =>
    have hne : contributors.map term ≠ [] := fun hnil => hsome (by rw [List.map_eq_nil_iff.1 hnil]; rfl)
    rw [mixScale, mixLevel_of_ne_nil hne, clampLevel_eq, List.length_map]
    rfl

/-! ### Bounds (R215) -/

/-- A fraction of a level is a level. -/
theorem fdiv_mul_level_range {x k n : Int} (hx : -one ≤ x ∧ x ≤ one) (hn : 0 < n) (hk : 0 ≤ k ∧ k ≤ n) :
    -one ≤ fdiv (x * k) n ∧ fdiv (x * k) n ≤ one := by
  obtain ⟨hlo, hhi⟩ := hx
  obtain ⟨hnonneg, hle⟩ := hk
  unfold one at *
  exact ⟨le_fdiv_of_mul_le hn (by nlinarith), fdiv_le_of_le_mul hn (by nlinarith)⟩

theorem chvol_range {vol : BitVec 4} (hvol : vol.toNat ≤ 10) {t : Int} (ht : -one ≤ t ∧ t ≤ one) :
    -one ≤ chvol P vol t ∧ chvol P vol t ≤ one := by
  unfold chvol
  split
  · exact fdiv_mul_level_range ht (by decide) (by omega)
  · exact ht

section

variable {now noise b}

theorem Block.level_range {i : Fin P.nv} (hsus : (b.voices[i]).sus.toNat ≤ 10) :
    -one ≤ b.level now noise i ∧ b.level now noise i ≤ one := by
  obtain ⟨hnonneg, hbase⟩ := env_range hsus now
  rw [Block.level, mul_comm]
  exact fdiv_mul_level_range (wave_range ..) (by decide) ⟨hnonneg, hbase.trans (b.voices[i]).base_range.2⟩

theorem Block.terms_range (hsus : ∀ i : Fin P.nv, (b.voices[i]).sus.toNat ≤ 10)
    (hvol : ∀ c : Fin P.nch, (b.chans[c]).vol.toNat ≤ 10) : ∀ t ∈ b.terms now noise, -one ≤ t ∧ t ≤ one := by
  intro t ht
  rw [Block.terms_eq_map] at ht
  obtain ⟨i, -, rfl⟩ := List.mem_map.1 ht
  exact chvol_range (hvol _) (Block.level_range (hsus i))

end

/-- The floored average of levels is a level. -/
theorem average_range {terms : List Int} (hne : terms ≠ []) (h : ∀ t ∈ terms, -one ≤ t ∧ t ≤ one) :
    -one ≤ fdiv terms.sum terms.length ∧ fdiv terms.sum terms.length ≤ one := by
  have hpos : (0 : Int) < terms.length := by exact_mod_cast List.length_pos_iff.2 hne
  have hlo := List.card_nsmul_le_sum terms (-one) fun t ht => (h t ht).1
  have hhi := List.sum_le_card_nsmul terms one fun t ht => (h t ht).2
  rw [nsmul_eq_mul, mul_comm] at hlo hhi
  exact ⟨le_fdiv_of_mul_le hpos hlo, fdiv_le_of_le_mul hpos hhi⟩

/-- The clamp never acts on an average of levels. -/
theorem mixLevel_of_range {terms : List Int} (hne : terms ≠ []) (h : ∀ t ∈ terms, -one ≤ t ∧ t ≤ one) :
    mixLevel terms = fdiv terms.sum terms.length := by
  rw [mixLevel_of_ne_nil hne, clampLevel_of_range (average_range hne h)]

/-- Settles O47: the terms are levels, so their average is one, and so is its scaled value. -/
theorem mixStaysInRangeWithoutClamp : Obligations.MixStaysInRangeWithoutClamp := by
  intro P b now noise hsus hvol hmvol
  have hterms := Block.terms_range (now := now) (noise := noise) hsus hvol
  refine ⟨hterms, fun hnil => ?silent, fun hne => ?unclamped, mixScale_range hmvol _⟩
  case silent => rw [Block.mix, hnil, mixScale_nil]
  case unclamped =>
    rw [Block.mix, mixScale, mixLevel_of_range hne hterms]
    rfl

/-! ### What a mix does not depend on (R212, R216) -/

theorem mixScale_perm (mvol : BitVec 4) {terms terms' : List Int} (h : terms.Perm terms') :
    mixScale mvol terms = mixScale mvol terms' := by
  rw [mixScale, mixScale, mixLevel, mixLevel, h.length_eq, h.sum_eq]

/-- A term reads one voice, one noise value and the channel table. -/
theorem Block.termOf_congr {now : Tick} {noiseA noiseB : Vector Q15 P.nv} {a b : Block P} {i j : Fin P.nv}
    (hvoice : b.voices[i] = a.voices[j]) (hnoise : noiseB[i] = noiseA[j]) (hchans : b.chans = a.chans) :
    b.termOf now noiseB i = a.termOf now noiseA j := by
  simp only [Block.termOf, hvoice, hnoise, hchans]

/-- Settles O48: permuting the voices with their noise values permutes the terms. -/
theorem mixIgnoresVoiceOrder : Obligations.MixIgnoresVoiceOrder := by
  intro P a b now noiseA noiseB order hmoved hchans hmvol
  have htermOf : b.termOf now noiseB = a.termOf now noiseA ∘ order := funext fun i =>
    Block.termOf_congr (hmoved i).1 (hmoved i).2 hchans
  have hperm : (b.terms now noiseB).Perm (a.terms now noiseA) := by
    rw [Block.terms_eq, Block.terms_eq, htermOf]
    exact (order.ofFn_comp_perm _).filterMap id
  rw [Block.mix, Block.mix, hmvol, mixScale_perm _ hperm]

/-- Settles O49: a silent voice has no term, so each voice's term is kept. -/
theorem silentVoicesDoNotDilute : Obligations.SilentVoicesDoNotDilute := by
  refine fun P a b now noise hvoices hchans hmvol => Block.mix_congr (a := b) (b := a) hmvol fun i => ?_
  obtain hkept | ⟨hsilentA, hsilentB⟩ := hvoices i
  · exact Block.termOf_congr hkept rfl hchans
  · rw [Block.termOf, Block.termOf, voiceTerm_eq_none hsilentA, voiceTerm_eq_none hsilentB]

end Sys2Proof.Machine
end

section
/-! `SAMPLE_TICK` (43_mixer.md R210, R211, R217): what it leaves of each register. -/

namespace Sys2Proof.Machine

open Sys2Proof.Laws

variable {P : Params} (now : Tick) (noise : Vector Q15 P.nv) (b : Block P)

theorem Block.advance_of_inactive {b : Block P} {i : Fin P.nv} (h : (b.voices[i]).active = false) :
    b.advance.voices[i] = b.voices[i] :=
  (Block.advance_getElem ..).trans (if_neg (Bool.eq_false_iff.1 h))

theorem Block.advance_of_active {b : Block P} {i : Fin P.nv} (h : (b.voices[i]).active = true) :
    b.advance.voices[i] = { b.voices[i] with phase := (b.voices[i]).phase + (b.voices[i]).inc } :=
  (Block.advance_getElem ..).trans (if_pos h)

/-- The push reads back the register just written (R217). -/
theorem Block.sampleTick_enc :
    (b.sampleTick now noise).enc = b.enc.push (b.sampleTick now noise).mixOut.toInt := rfl

/-- The mixed value survives its register, because a legal master volume keeps it a level (R215). -/
theorem Block.sampleTick_mixOut_toInt (h : b.mvol.toNat ≤ 10) :
    (b.sampleTick now noise).mixOut.toInt = (b.retire now).advance.mix now noise :=
  toQ15_toInt_level (mixScale_range h _)

/-- A level is pushed as it is (R217). -/
theorem Encoder.push_of_level {x : Q15} (h : -one ≤ x.toInt ∧ x.toInt ≤ one) (e : Encoder) :
    e.push x.toInt = { e with bufPrev := e.bufCur, bufCur := x } := by
  rw [Encoder.push, clampLevel_of_range h, toQ15_of_toInt]

/-- Settles O45: the five steps of R210, the first of which is `UPDATE`. -/
theorem sampleTickMakesOneSample : Obligations.SampleTickMakesOneSample := by
  intro s hmvol
  have hmixOut := s.block.sampleTick_mixOut_toInt s.now s.noise hmvol
  refine ⟨s.block.sampleTick s.now s.noise, s.block.retire s.now, exec_eq_next .., exec_eq_next ..,
    fun i => ⟨Block.advance_of_inactive, Block.advance_of_active⟩, hmixOut, ?pushed, rfl⟩
  case pushed =>
    rw [Block.sampleTick_enc, Encoder.push_of_level (hmixOut ▸ mixScale_range hmvol _)]

theorem pushedSample_signExtend (x : Q15) : pushedSample (x.signExtend 32) = x.toInt :=
  BitVec.toInt_signExtend_of_le (by decide)

/-- Settles O50: widening `MIX_OUT` to the operand of `DS_PUSH` keeps its value. -/
theorem sampleTickPushesItsMix : Obligations.SampleTickPushesItsMix := by
  refine fun s => ⟨s.block.sampleTick s.now s.noise, _, exec_eq_next .., exec_eq_next .., ?_⟩
  rw [Block.sampleTick_enc, ← pushedSample_signExtend]
  rfl

end Sys2Proof.Machine
end

section
/-! The encoder's commands (44_delta_sigma.md R231 to R233, R236 to R238): each writes the registers its rule names and no other. -/

namespace Sys2Proof.Machine

open Sys2Proof.Laws

theorem Block.updEnc_of_kept {P : Params} {f : Encoder → Encoder} {b : Block P} (h : f b.enc = b.enc) : b.updEnc f = b := by
  rw [Block.updEnc, h]

/-- Settles O51: the push writes both slots, running or stopped. -/
theorem dsPushRotatesTheBuffer : Obligations.DsPushRotatesTheBuffer := by
  refine fun s sample => ⟨s.block.dsPush sample, toQ15 (clampLevel sample.toInt), exec_eq_next .., ?clamped, rfl⟩
  case clamped => exact (toQ15_clampLevel_toInt _).trans (clampLevel_eq _)

theorem Encoder.start_of_running {e : Encoder} (h : e.run = true) : e.start = e := if_pos h

theorem Encoder.start_of_stopped {e : Encoder} (h : e.run = false) :
    e.start = { e with run := true, phase := 0, pwmEn := true } := if_neg (Bool.eq_false_iff.1 h)

/-- Settles O52: the start acts from stopped only, the stop always. -/
theorem encoderStartsAndStops : Obligations.EncoderStartsAndStops := by
  refine fun s => ⟨fun hstopped => ?start, fun hrunning => exec_eq_next_self ?again, exec_eq_next ..⟩
  case start =>
    rw [← Encoder.start_of_stopped hstopped, exec_eq_next]
    rfl
  case again => exact Block.updEnc_of_kept (Encoder.start_of_running hrunning)

/-- Settles O53: the volume clamped to `ONE` fits its register. -/
theorem encoderVolumeClampsToOne : Obligations.EncoderVolumeClampsToOne := fun s volume =>
  ⟨s.block.dsSetVol volume, exec_eq_next .., encoderVolume_toNat volume, rfl⟩

end Sys2Proof.Machine
end

section
/-! `PULSE` (44_delta_sigma.md R240 to R242): a running encoder turns the sum of its input and its error into one bit and a new
error, which its register holds. -/

namespace Sys2Proof.Machine

open Sys2Proof.Laws

variable {P : Params} {e : Encoder}

/-- Above one half the bit is 1 and a full period is taken off the sum. -/
theorem Encoder.nextBit_of_above (h : one < e.sum P) : e.nextBit P = true ∧ e.nextErr P = e.sum P - 65536 := by
  have hbit : e.nextBit P = true := decide_eq_true h
  exact ⟨hbit, by rw [Encoder.nextErr, hbit]; rfl⟩

/-- Otherwise the bit is 0 and the sum is the new error. -/
theorem Encoder.nextBit_of_not_above (h : e.sum P ≤ one) : e.nextBit P = false ∧ e.nextErr P = e.sum P := by
  have hbit : e.nextBit P = false := decide_eq_false h.not_gt
  exact ⟨hbit, by rw [Encoder.nextErr, hbit]; exact sub_zero _⟩

/-- The new error survives its register, because it is in the range of R242. -/
theorem Encoder.Inv.pulse_err (h : e.Inv P) (hrun : e.run = true) : (e.pulse P).err.toInt = e.nextErr P := by
  have herr := h.nextErr_range
  rw [Encoder.pulse_of_running hrun]
  exact toQ15_toInt (by omega)

/-- A pulse above one half (R240). -/
theorem Encoder.Inv.pulse_of_above (h : e.Inv P) (hrun : e.run = true) (habove : one < e.sum P) :
    (e.pulse P).bit = true ∧ (e.pulse P).err.toInt = e.sum P - 65536 := by
  rw [Encoder.pulse_bit hrun, h.pulse_err hrun]
  exact Encoder.nextBit_of_above habove

/-- A pulse not above one half (R240). -/
theorem Encoder.Inv.pulse_of_not_above (h : e.Inv P) (hrun : e.run = true) (hle : e.sum P ≤ one) :
    (e.pulse P).bit = false ∧ (e.pulse P).err.toInt = e.sum P := by
  rw [Encoder.pulse_bit hrun, h.pulse_err hrun]
  exact Encoder.nextBit_of_not_above hle

/-- Settles O54: the bit and the duty by the two cases of the sum, the phase by its counter. -/
theorem pulseEmitsOneBit : Obligations.PulseEmitsOneBit := by
  refine fun s => ⟨fun hstopped => exec_eq_next_self ?stopped, fun hrun hinv => ?running⟩
  case stopped => exact Block.updEnc_of_kept (Encoder.pulse_of_stopped hstopped)
  case running =>
    refine ⟨s.block.pulse, exec_eq_next .., fun habove => ?one, fun hle => ?zero, Encoder.pulse_phase hrun, ?frame⟩
    case one =>
      obtain ⟨hbit, herr⟩ := hinv.pulse_of_above hrun habove
      exact ⟨hbit, herr, (Encoder.pulse_pwmDuty hrun).trans (if_pos hbit)⟩
    case zero =>
      obtain ⟨hbit, herr⟩ := hinv.pulse_of_not_above hrun hle
      exact ⟨hbit, herr, (Encoder.pulse_pwmDuty hrun).trans (if_neg (Bool.eq_false_iff.1 hbit))⟩
    case frame =>
      rw [Block.pulse, Block.updEnc, Encoder.pulse_of_running hrun]
      rfl

/-- Settles O56: the error's range is part of what a pulse keeps. -/
theorem quantisationErrorStaysBounded : Obligations.QuantisationErrorStaysBounded := fun _ _ h =>
  ⟨h.pulse.err_range.1, h.pulse.err_range.2, h.pulse⟩

end Sys2Proof.Machine
end

section
/-! Streams of pulses with nothing in between (44_delta_sigma.md R244, R245): the slots stay, the phase counts modulo `OSR`, and a
constant input repeats its bits with the period of its error. -/

namespace Sys2Proof.Machine

open Sys2Proof.Laws

variable {P : Params}

/-! ### The sweep (R245) -/

@[simp] theorem Encoder.pulses_bufCur (n : Nat) (e : Encoder) : (e.pulses P n).bufCur = e.bufCur := by
  induction n generalizing e with
  | zero => rfl
  | succ n ih => rw [Encoder.pulses, ih, Encoder.pulse_bufCur]

@[simp] theorem Encoder.pulses_bufPrev (n : Nat) (e : Encoder) : (e.pulses P n).bufPrev = e.bufPrev := by
  induction n generalizing e with
  | zero => rfl
  | succ n ih => rw [Encoder.pulses, ih, Encoder.pulse_bufPrev]

theorem Encoder.pulses_phase {e : Encoder} (hrun : e.run = true) (hphase : e.phase.toNat < P.osr) (n : Nat) :
    (e.pulses P n).phase.toNat = (e.phase.toNat + n) % P.osr := by
  induction n generalizing e with
  | zero => exact (Nat.mod_eq_of_lt hphase).symm
  | succ n ih =>
    have hnext := Encoder.pulse_phase (P := P) hrun
    have hlt : (e.pulse P).phase.toNat < P.osr := hnext ▸ Nat.mod_lt _ P.valid.osr_pos
    rw [Encoder.pulses, ih ((e.pulse_run P).trans hrun) hlt, hnext, Nat.mod_add_mod, Nat.add_assoc, Nat.add_comm 1 n]

theorem Encoder.pulses_osr_phase {e : Encoder} (hrun : e.run = true) (hphase : e.phase.toNat < P.osr) :
    (e.pulses P P.osr).phase = e.phase :=
  BitVec.eq_of_toNat_eq (by rw [Encoder.pulses_phase hrun hphase, Nat.add_mod_right, Nat.mod_eq_of_lt hphase])

/-- Settles O59: `OSR` pulses count the phase round once, and the interpolated value reads only the phase and the slots. -/
theorem sweepRepeatsEveryOsrPulses : Obligations.SweepRepeatsEveryOsrPulses := by
  intro P e hrun hphase
  have hround := Encoder.pulses_osr_phase hrun hphase
  refine ⟨hround, ?_, fun n => ⟨Encoder.pulses_bufCur n e, Encoder.pulses_bufPrev n e⟩⟩
  rw [Encoder.interp, Encoder.interp, Encoder.pulses_bufCur, Encoder.pulses_bufPrev, hround]

/-! ### A constant input at unit volume (R244) -/

/-- A running encoder at unit volume with `x` in both slots and the error `err`. -/
structure Encoder.Steady (P : Params) (x err : Int) (e : Encoder) : Prop where
  inv : e.Inv P
  run_eq : e.run = true
  vol_eq : e.vol.toNat = 32768
  slots_eq : e.bufPrev = e.bufCur
  level_eq : e.bufCur.toInt = x
  err_eq : e.err.toInt = err

variable {x err : Int} {e : Encoder}

/-- Between equal samples at unit volume the input is the sample. -/
theorem Encoder.Steady.sum_eq (h : e.Steady P x err) : e.sum P = x + 32768 + err := by
  have hinterp : e.interp P = x := by
    rw [Encoder.interp, h.slots_eq, h.level_eq, sub_self, zero_mul, zero_fdiv, add_zero]
  have hscaled : e.scaled P = x := by
    rw [Encoder.scaled, hinterp, h.vol_eq]
    exact mul_fdiv_cancel x (by decide)
  rw [Encoder.sum, Encoder.mapped, hscaled, h.err_eq]
  rfl

/-- A pulse writes only the error of what makes an encoder steady. -/
theorem Encoder.Steady.pulse (h : e.Steady P x err) {err' : Int} (herr : (e.pulse P).err.toInt = err') :
    (e.pulse P).Steady P x err' where
  inv := h.inv.pulse
  run_eq := (e.pulse_run P).trans h.run_eq
  vol_eq := by rw [Encoder.pulse_vol, h.vol_eq]
  slots_eq := by rw [Encoder.pulse_bufPrev, Encoder.pulse_bufCur, h.slots_eq]
  level_eq := by rw [Encoder.pulse_bufCur, h.level_eq]
  err_eq := herr

theorem Encoder.Steady.pulse_one (h : e.Steady P x err) (habove : 0 < x + err) :
    (e.pulse P).bit = true ∧ (e.pulse P).Steady P x (x + err - 32768) := by
  have hsum := h.sum_eq
  obtain ⟨hbit, herr⟩ := h.inv.pulse_of_above h.run_eq (by rw [one]; omega)
  exact ⟨hbit, h.pulse (by omega)⟩

theorem Encoder.Steady.pulse_zero (h : e.Steady P x err) (hle : x + err ≤ 0) :
    (e.pulse P).bit = false ∧ (e.pulse P).Steady P x (x + err + 32768) := by
  have hsum := h.sum_eq
  obtain ⟨hbit, herr⟩ := h.inv.pulse_of_not_above h.run_eq (by rw [one]; omega)
  exact ⟨hbit, h.pulse (by omega)⟩

theorem Encoder.pulses_add (m n : Nat) (e : Encoder) : e.pulses P (m + n) = (e.pulses P m).pulses P n := by
  induction m generalizing e with
  | zero => rw [Nat.zero_add]; rfl
  | succ m ih => rw [Nat.succ_add]; exact ih _

theorem Encoder.ones_add (m n : Nat) (e : Encoder) : e.ones P (m + n) = e.ones P m + (e.pulses P m).ones P n := by
  induction m generalizing e with
  | zero => simp [Encoder.ones, Encoder.pulses]
  | succ m ih => rw [Nat.succ_add, Encoder.ones, ih, Encoder.ones, Encoder.pulses, Nat.add_assoc]

/-- If `k` pulses keep an encoder steady at its error and emit `j` ones, `n` times as many do so `n` times over. -/
theorem Encoder.Steady.repeats {k j : Nat}
    (hperiod : ∀ e : Encoder, e.Steady P x err → (e.pulses P k).Steady P x err ∧ e.ones P k = j)
    (h : e.Steady P x err) (n : Nat) : (e.pulses P (k * n)).Steady P x err ∧ e.ones P (k * n) = j * n := by
  induction n with
  | zero => exact ⟨h, rfl⟩
  | succ n ih =>
    obtain ⟨hsteady, hones⟩ := ih
    obtain ⟨hsteady', hones'⟩ := hperiod _ hsteady
    rw [Nat.mul_succ, Encoder.pulses_add, Encoder.ones_add, hones, hones']
    exact ⟨hsteady', rfl⟩

theorem Encoder.Steady.period_of_one (h : e.Steady P 32768 0) : (e.pulses P 1).Steady P 32768 0 ∧ e.ones P 1 = 1 := by
  obtain ⟨hbit, hnext⟩ := h.pulse_one (by decide)
  exact ⟨hnext, congrArg Bool.toNat hbit⟩

theorem Encoder.Steady.period_of_neg_one (h : e.Steady P (-32768) 0) :
    (e.pulses P 1).Steady P (-32768) 0 ∧ e.ones P 1 = 0 := by
  obtain ⟨hbit, hnext⟩ := h.pulse_zero (by decide)
  exact ⟨hnext, congrArg Bool.toNat hbit⟩

/-- From the input 0 one half goes into the error, and comes out of it with the next bit. -/
theorem Encoder.Steady.pulses_of_zero (h : e.Steady P 0 0) :
    (e.pulses P 1).bit = false ∧ (e.pulses P 2).bit = true ∧ (e.pulses P 2).Steady P 0 0 := by
  obtain ⟨hbit, hnext⟩ := h.pulse_zero (by decide)
  obtain ⟨hbit', hnext'⟩ := hnext.pulse_one (by decide)
  exact ⟨hbit, hbit', hnext'⟩

theorem Encoder.Steady.period_of_zero (h : e.Steady P 0 0) : (e.pulses P 2).Steady P 0 0 ∧ e.ones P 2 = 1 := by
  obtain ⟨hbit, hbit', hnext⟩ := h.pulses_of_zero
  exact ⟨hnext, congrArg₂ (fun b c : Bool => b.toNat + c.toNat) hbit hbit'⟩

/-- Settles O58: the inputs `ONE` and `-ONE` repeat every pulse, the input 0 every second one. -/
theorem constantInputStreams : Obligations.ConstantInputStreams := by
  intro P e n hinv hrun hvol herr hslots
  have hsteady : ∀ x, e.bufCur.toInt = x → e.Steady P x 0 := fun x hx => ⟨hinv, hrun, hvol, hslots, hx, herr⟩
  refine ⟨fun hx => ?ones, fun hx => ?zeros, fun hx => ?alternating⟩
  case ones =>
    obtain ⟨hend, hones⟩ := (hsteady _ hx).repeats (fun _ => Encoder.Steady.period_of_one) n
    rw [Nat.one_mul] at hend hones
    exact ⟨hones, hend.err_eq⟩
  case zeros =>
    obtain ⟨hend, hones⟩ := (hsteady _ hx).repeats (fun _ => Encoder.Steady.period_of_neg_one) n
    rw [Nat.one_mul] at hend
    rw [Nat.one_mul, Nat.zero_mul] at hones
    exact ⟨hones, hend.err_eq⟩
  case alternating =>
    obtain ⟨hend, hones⟩ := (hsteady _ hx).repeats (fun _ => Encoder.Steady.period_of_zero) n
    rw [Nat.one_mul] at hones
    obtain ⟨hfirst, hsecond, -⟩ := hend.pulses_of_zero
    rw [Encoder.pulses_add, Encoder.pulses_add]
    exact ⟨hones, hend.err_eq, hfirst, hsecond⟩

end Sys2Proof.Machine
end

section
/-! The density of the 1 bits over any events but a `RESET` (44_delta_sigma.md R243): each pulse accounts for its input by its bit
and the change of the error, and no command writes the error. -/

namespace Sys2Proof.Machine

variable {P : Params}

/-! ### One event -/

/-- The 1 bit, if any, that a step from `s` to `t` emits. -/
def State.bitEmitted (s t : State) : Nat := if s.emitsBit then t.block.enc.bit.toNat else 0

/-- The input that a step from `s` sees, 0 where it emits no bit. -/
def State.inputSeen (s : State) : Int := if s.emitsBit then s.block.enc.mapped s.params else 0

/-- The bit of a step from `s` to `t` accounts for the input it sees, up to the change of the error. -/
def State.Balanced (s t : State) : Prop :=
  (s.bitEmitted t : Int) * 65536 = s.inputSeen + s.block.enc.err.toInt - t.block.enc.err.toInt

theorem State.onesEmitted_succ {s t : State} (h : step s = .next t) (n : Nat) :
    s.onesEmitted (n + 1) = s.bitEmitted t + t.onesEmitted n := by
  rw [State.onesEmitted, h]
  rfl

theorem State.inputSum_succ {s t : State} (h : step s = .next t) (n : Nat) :
    s.inputSum (n + 1) = s.inputSeen + t.inputSum n := by
  rw [State.inputSum, h]
  rfl

/-- A step that emits no bit balances if it keeps the error. -/
theorem State.Balanced.of_silent {s t : State} (hsilent : s.emitsBit = false)
    (herr : t.block.enc.err = s.block.enc.err) : s.Balanced t := by
  simp [State.Balanced, State.bitEmitted, State.inputSeen, hsilent, herr]

/-- What a running pulse takes off the sum is its bit. -/
theorem Encoder.Inv.pulse_balance {e : Encoder} (h : e.Inv P) (hrun : e.run = true) :
    ((e.pulse P).bit.toNat : Int) * 65536 = e.mapped P + e.err.toInt - (e.pulse P).err.toInt := by
  have hsum : e.sum P = e.mapped P + e.err.toInt := rfl
  obtain habove | hle := lt_or_ge one (e.sum P)
  · obtain ⟨hbit, herr⟩ := h.pulse_of_above hrun habove
    rw [hbit, Bool.toNat_true]
    omega
  · obtain ⟨hbit, herr⟩ := h.pulse_of_not_above hrun hle
    rw [hbit, Bool.toNat_false]
    omega

theorem mnemonic_ne_pulse_of_wf {i : Instr} (h : i.wf = true) : i.mnemonic ≠ "PULSE" := by
  cases i with
  | pulse => cases h
  | _ => simp [Instr.mnemonic]

/-- No command writes `DS_ERR` (R41, R94). -/
theorem blockExec_decode_err (word : Word) (now : Tick) (noise : Vector Q15 P.nv) (b : Block P) :
    (blockExec P (decode word) now noise b).enc.err = b.enc.err :=
  (blockExec_writtenBy (decode word) now noise b).enc.err (mnemonic_ne_pulse_of_wf (Laws.decode_wf word))

/-- A pulse balances: running by its bit, stopped because it does nothing. -/
theorem State.Inv.balanced_pulse {s : State} (h : s.Inv) {rest : List (Event s.params)} (hpending : s.pending = .pulse :: rest) :
    s.Balanced (State.afterEvent { s with pending := rest } .pulse) := by
  cases hrun : s.block.enc.run with
  | false =>
    refine .of_silent (by rw [State.emitsBit, hrun, Bool.and_false]) ?_
    exact congrArg Encoder.err (Encoder.pulse_of_stopped hrun)
  | true =>
    have hemits : s.emitsBit = true := by simp [State.emitsBit, hpending, hrun]
    rw [State.Balanced, State.bitEmitted, State.inputSeen, if_pos hemits, if_pos hemits]
    exact h.enc.pulse_balance hrun

/-- Every event but a `RESET` balances. -/
theorem State.Inv.balanced_event {s : State} (h : s.Inv) {event : Event s.params} {rest : List (Event s.params)}
    (hpending : s.pending = event :: rest) (hreset : event ≠ .reset) :
    s.Balanced (State.afterEvent { s with pending := rest } event) := by
  cases event with
  | cmd word now noise =>
    exact .of_silent (by simp [State.emitsBit, hpending]) (blockExec_decode_err word now noise s.block)
  | pulse => exact h.balanced_pulse hpending
  | reset => exact absurd rfl hreset

/-- An event adds none to those pending. -/
theorem State.afterEvent_resetFree {s : State} (event : Event s.params) {n : Nat} (h : Event.reset ∉ s.pending.take n) :
    Event.reset ∉ (s.afterEvent event).pending.take n := by
  cases event <;> exact h

/-- Every step with no `RESET` ahead balances, and leaves a legal state with none ahead. -/
theorem State.Inv.step_balanced {s : State} (h : s.Inv) {n : Nat} (hfree : Event.reset ∉ s.pending.take (n + 1)) :
    ∃ t, step s = .next t ∧ t.Inv ∧ Event.reset ∉ t.pending.take n ∧ s.Balanced t := by
  obtain ⟨t, hstep, hinv⟩ := stepKeepsLegalState s h
  refine ⟨t, hstep, hinv, ?_⟩
  obtain ⟨hnone, hstay⟩ | ⟨event, rest, hpending, hnext⟩ := step_cases s
  · obtain rfl : s = t := Host.Outcome.next.inj (hstay.symm.trans hstep)
    exact ⟨by simp [hnone], .of_silent (by simp [State.emitsBit, hnone]) rfl⟩
  · obtain rfl : State.afterEvent { s with pending := rest } event = t := Host.Outcome.next.inj (hnext.symm.trans hstep)
    rw [hpending, List.take_succ_cons, List.mem_cons, not_or] at hfree
    obtain ⟨hne, hrest⟩ := hfree
    exact ⟨State.afterEvent_resetFree (s := { s with pending := rest }) event hrest, h.balanced_event hpending (Ne.symm hne)⟩

/-! ### Any number of events -/

/-- The balances of the steps of a run add up: the errors between them cancel. -/
theorem State.Inv.run_balanced {s : State} (h : s.Inv) {n : Nat} (hfree : Event.reset ∉ s.pending.take n) :
    ∃ t, Sys2Proof.core.run n s = .next t ∧ t.Inv ∧
      (s.onesEmitted n : Int) * 65536 = s.inputSum n + s.block.enc.err.toInt - t.block.enc.err.toInt := by
  induction n generalizing s with
  | zero => exact ⟨s, rfl, h, by simp [State.onesEmitted, State.inputSum]⟩
  | succ n ih =>
    obtain ⟨u, hstep, hinv, hfree', hbalance⟩ := h.step_balanced hfree
    obtain ⟨t, hrun, hinv', htotal⟩ := ih hinv hfree'
    refine ⟨t, (core_run_succ n hstep).trans hrun, hinv', ?_⟩
    rw [State.onesEmitted_succ hstep, State.inputSum_succ hstep]
    rw [State.Balanced] at hbalance
    push_cast
    omega

/-- Settles O57: the run balances, and the errors at its two ends are in the range of R242. -/
theorem pulseDensityFollowsTheInput : Obligations.PulseDensityFollowsTheInput := by
  intro s n h hfree
  obtain ⟨t, hrun, hinv, htotal⟩ := h.run_balanced hfree
  obtain ⟨hbeforeLo, hbeforeHi⟩ := h.enc.err_range
  obtain ⟨hafterLo, hafterHi⟩ := hinv.enc.err_range
  exact ⟨t, hrun, htotal, by omega, by omega⟩

end Sys2Proof.Machine
end

section
/-! The ranges of a pulse (44_delta_sigma.md R240, 49_arithmetic_laws.md R325): the range of each intermediate value follows from
that of the one before it and of the registers. -/

namespace Sys2Proof.Machine

/-- Settles O55: along the chain of R240, `interp` by the phase, `v` by the volume, `u` by its shift, `sum` by the error. -/
theorem pulseIntermediatesStayInRange : Obligations.PulseIntermediatesStayInRange := by
  intro P e h
  obtain ⟨hinterpLo, hinterpHi⟩ := h.interp_range
  obtain ⟨hscaledLo, hscaledHi⟩ := h.scaled_range
  obtain ⟨hmappedLo, hmappedHi⟩ := h.mapped_range
  exact ⟨hinterpLo, hinterpHi, hscaledLo, hscaledHi, hmappedLo, hmappedHi, h.sum_range⟩

end Sys2Proof.Machine
end

section
/-! Completion (60_exceptions.md R260, R281; 10_state.md R48): every step answers, and a run of steps folds `blockStep` over the
events it takes off the list. -/

namespace Sys2Proof.Machine

/-- No step changes the parameters (R6, R48). -/
theorem step_completes (s : State) : ∃ t, step s = .next t ∧ t.params = s.params := by
  obtain ⟨-, hstay⟩ | ⟨event, rest, -, hnext⟩ := step_cases s
  · exact ⟨s, hstay, rfl⟩
  · exact ⟨_, hnext, State.afterEvent_params ..⟩

/-- The step on a pending event is `blockStep` on the block; `now` and `noise` are left as the last command sampled them. -/
theorem step_cons_block {s : State} {event : Event s.params} {rest : List (Event s.params)} (h : s.pending = event :: rest) :
    ∃ (now : Tick) (noise : Vector Q15 s.params.nv), step s = .next { s with
      block := blockStep s.params event s.block, now := now, noise := noise, pending := rest } := by
  rw [step_eq_applyEvent h]
  exact applyEvent_block { s with pending := rest } event

/-- Any number of steps runs as many of the pending events on the block, or all of them where there are fewer (log entry 13). -/
theorem core_run_block (s : State) (n : Nat) : ∃ (now : Tick) (noise : Vector Q15 s.params.nv),
    Sys2Proof.core.run n s = .next { s with
      block := blockRun s.params (s.pending.take n) s.block, now := now, noise := noise, pending := s.pending.drop n } := by
  induction n generalizing s with
  | zero => exact ⟨s.now, s.noise, rfl⟩
  | succ n ih =>
    cases hpending : s.pending with
    | nil =>
      obtain ⟨now, noise, hrun⟩ := ih s
      rw [hpending, List.take_nil, List.drop_nil] at hrun
      exact ⟨now, noise, (core_run_succ n (step_nil hpending)).trans hrun⟩
    | cons event rest =>
      obtain ⟨now, noise, hstep⟩ := step_cons_block hpending
      obtain ⟨now', noise', hrun⟩ := ih { s with
        block := blockStep s.params event s.block, now := now, noise := noise, pending := rest }
      exact ⟨now', noise', (core_run_succ n hstep).trans hrun⟩

/-- Settles O12: steps and instructions answer by one lemma each, runs by induction on their length. -/
theorem everyEventCompletes : Obligations.EveryEventCompletes := ⟨step_completes, exec_eq_next, core_run_block⟩

end Sys2Proof.Machine
end

section
/-! Operands out of range (60_exceptions.md R262, R271; 30_encoding.md R98): a selecting one makes the command do nothing; the
reading of a scaling one does not tell it from its clamped value. -/

namespace Sys2Proof.Machine

open Sys2Proof.Laws

variable {P : Params}

/-! ### Selecting operands -/

/-- A command that selects a channel, a note or a wave that is not there leaves the block. -/
theorem blockExec_of_selectors_out {i : Instr} (h : i.selectorsInRange P = false) (now : Tick) (noise : Vector Q15 P.nv)
    (b : Block P) : blockExec P i now noise b = b := by
  cases i with
  | noteOn ch note vel => exact Block.noteOn_of_not_range (of_decide_eq_false h) vel now b
  | noteOff ch note => exact Block.noteOff_of_not_range (of_decide_eq_false h) now b
  | setChvol ch volume => exact Block.setChvol_of_not_lt (of_decide_eq_false h) volume b
  | setWave ch tag count => exact Block.setWave_of_not_range (of_decide_eq_false h) count b
  | setAdsr | setAttack | setDecay | setSustain | setRelease => exact Block.retuneOn_of_not_lt (of_decide_eq_false h) _ b
  | nop | allOff | setMvol | update | sampleTick | dsPush | dsStart | dsStop | dsSetVol | reservedF3 | reservedF4F7
  | reservedF8FF | pulse => nomatch h

/-! ### Scaling operands: the clamped value fits its field and reads the same -/

theorem toNat_ofNat_min {w : Nat} (x : BitVec w) (bound : Nat) :
    (BitVec.ofNat w (min x.toNat bound)).toNat = min x.toNat bound := by
  rw [BitVec.toNat_ofNat, Nat.mod_eq_of_lt (Nat.lt_of_le_of_lt (Nat.min_le_left ..) x.isLt)]

theorem ofNat_min_le {w : Nat} (x : BitVec w) (bound : Nat) : (BitVec.ofNat w (min x.toNat bound)).toNat ≤ bound := by
  rw [toNat_ofNat_min]
  exact Nat.min_le_right ..

/-- `velocity`, `level10`, `harmonics` and `encoderVolume` all read their operand through a `min`, which acts only once. -/
theorem min_toNat_ofNat_min {w : Nat} (x : BitVec w) (bound : Nat) :
    min (BitVec.ofNat w (min x.toNat bound)).toNat bound = min x.toNat bound := by
  rw [toNat_ofNat_min, min_assoc, min_self]

/-- The clamped sample fits its 32 bits, and is the level a push makes of it (R232). -/
theorem toInt_ofInt_clamped (x : Int) : (BitVec.ofInt 32 (max (-one) (min x one))).toInt = clampLevel x := by
  have hrange := clampLevel_range x
  rw [min_comm, ← clampLevel_eq, BitVec.toInt_ofInt]
  rw [one] at hrange
  exact Int.bmod_eq_of_le_mul_two (by omega) (by omega)

/-- A push clamps its sample, so clamping it before changes nothing. -/
theorem Encoder.push_clampLevel (x : Int) (e : Encoder) : e.push (clampLevel x) = e.push x := by
  rw [Encoder.push, clampLevel_of_range (clampLevel_range x), Encoder.push]

/-- Every command does with its scaling operands clamped what it does with them as they are. -/
theorem blockExec_clampScalers (i : Instr) (now : Tick) (noise : Vector Q15 P.nv) (b : Block P) :
    blockExec P (i.clampScalers P) now noise b = blockExec P i now noise b := by
  cases i with
  | noteOn => simp only [Instr.clampScalers, blockExec, Block.noteOn, velocity, min_toNat_ofNat_min]
  | setMvol => simp only [Instr.clampScalers, blockExec, Block.setMvol, level10, min_toNat_ofNat_min]
  | setChvol => simp only [Instr.clampScalers, blockExec, Block.setChvol, level10, min_toNat_ofNat_min]
  | setAdsr => simp only [Instr.clampScalers, blockExec, Block.setAdsr, level10, min_toNat_ofNat_min]
  | setSustain => simp only [Instr.clampScalers, blockExec, Block.setSustain, level10, min_toNat_ofNat_min]
  | setWave => simp only [Instr.clampScalers, blockExec, Block.setWave, harmonics, min_toNat_ofNat_min]
  | dsPush sample =>
    simp only [Instr.clampScalers, blockExec, Block.dsPush, Block.push, Block.updEnc, pushedSample, toInt_ofInt_clamped,
      Encoder.push_clampLevel]
  | dsSetVol => simp only [Instr.clampScalers, blockExec, Block.dsSetVol, encoderVolume, min_toNat_ofNat_min]
  | nop | noteOff | allOff | setAttack | setDecay | setRelease | update | sampleTick | dsStart | dsStop | reservedF3
  | reservedF4F7 | reservedF8FF | pulse => rfl

/-- The clamped operands are in the legal range of R98. -/
theorem scalersInRange_clampScalers (i : Instr) : (i.clampScalers P).scalersInRange P = true := by
  cases i with
  | noteOn | setMvol | setChvol | setAdsr | setSustain | setWave => exact decide_eq_true (ofNat_min_le ..)
  | dsPush sample =>
    refine decide_eq_true ?_
    rw [toInt_ofInt_clamped]
    exact clampLevel_range _
  | dsSetVol volume => exact decide_eq_true (Int.ofNat_le.2 (ofNat_min_le volume one.toNat))
  | nop | noteOff | allOff | setAttack | setDecay | setRelease | update | sampleTick | dsStart | dsStop | reservedF3
  | reservedF4F7 | reservedF8FF | pulse => rfl

/-- Settles O20: each clause by its lemma about the block, which is all an instruction leaves. -/
theorem selectorsIgnoredScalersClamped : Obligations.SelectorsIgnoredScalersClamped := fun i s =>
  ⟨fun hout => exec_eq_next_self (blockExec_of_selectors_out hout ..),
    by rw [exec_eq_next, exec_eq_next, blockExec_clampScalers], scalersInRange_clampScalers i⟩

end Sys2Proof.Machine
end
